-- ==== Sys2Proof/Word.lean ====
section
/-! DEFINITION. The byte the block transmits and the request it is handed: the two "words" of this hardware.

The block has no register and no memory, so no machine word (rules R23, R40). What it is handed is a record of a 2-bit
selector and two unbounded naturals (rules R6, R60); what it hands on is an 8-bit byte (rules R5, R47). -/

namespace Sys2Proof

/-- One transmitted byte, bit 7 the most significant (rules R5, R43, R47). -/
abbrev Byte := BitVec 8

/-- The operation selector of a request, bits 1:0 (rule R60). -/
abbrev Selector := BitVec 2

/-- A request `(op, arg0, arg1)` as the caller issues it (rule R60). The operands are unsigned naturals with no upper
bound (rule R6). -/
structure Request where
  op : Selector
  arg0 : Nat
  arg1 : Nat
  deriving DecidableEq, Repr

end Sys2Proof
end

