-- ==== Sys2Proof/Config.lean ====
section
/-! DEFINITION. The parameters and constants of the block: fixed, and not affected by reset (rules R5, R22, R31).

The register-layout table of rule R21 stands in Machine/Layout.lean. -/

namespace Sys2Proof.Config

/-- The value of bit 7 in every latch byte (rule R22). -/
def latchMark : BitVec 1 := 1#1

/-- The value of bit 7 in every data byte (rule R22). -/
def dataMark : BitVec 1 := 0#1

/-- The address of the noise-control register (rule R22). -/
def addrNoiseCtrl : Nat := 6

/-- The highest register address (rule R22). -/
def addrMax : Nat := 7

/-- `BYTE_W`, the width of one transmitted byte (rule R5). -/
def byteWidth : Nat := 8

/-- `ADDR_W`, the width of a register address (rule R5). -/
def addrWidth : Nat := 3

/-- The number of chip registers: the address space is closed at 8 entries (rules R5, R42). -/
def numRegs : Nat := 8

/-- Tone channels 0 to 2 and noise channel 3 (rule R5). -/
def numChannels : Nat := 4

/-- Tone channels 0 to 2 (rule R5). -/
def numToneChannels : Nat := 3

/-- Width of the frequency divisor (rule R5). -/
def divWidth : Nat := 10

/-- Divisor bits carried by the latch byte (rule R5). -/
def latchHiWidth : Nat := 4

/-- Divisor bits carried by the data byte (rule R5). -/
def dataLoWidth : Nat := 6

/-- Width of the attenuation field (rule R5). -/
def attWidth : Nat := 4

/-- Decibels of one attenuation unit (rule R5). -/
def dbStep : Nat := 2

/-- Width of the noise feedback setting (rule R5). -/
def fbWidth : Nat := 1

/-- Width of the noise shift rate (rule R5). -/
def shWidth : Nat := 2

/-- `CLOCK_HZ`, the PSG's input clock: an OPEN parameter that no rule of the block reads (rules R5, R107; decision
D18). UNVERIFIED, safe: it has no body, so no proof can see its value (log entry 13). -/
opaque clockHz : Nat

end Sys2Proof.Config
end

