-- ==== Sys2Proof/Syntax.lean ====
section
/-! DEFINITION. The requests the block gives a meaning to: one constructor per row of `opcode_table.json`. -/

namespace Sys2Proof

/-- The three operations (rules R3, R60), operands in the order of the document's call signatures. Every operand is an
unbounded unsigned natural (rule R6); a negative operand cannot be represented (item I5; log entry 8). -/
inductive Instr where
  /-- `update_frequency(channel, divisor)`, rule R100. -/
  | updateFrequency (channel divisor : Nat)
  /-- `update_noise(feedback, shift)`, rule R120. -/
  | updateNoise (feedback shift : Nat)
  /-- `update_attenuation(channel, db)`, rule R140. -/
  | updateAttenuation (channel db : Nat)
  deriving DecidableEq, Repr

end Sys2Proof
end

