-- ==== Sys2Proof/WellFormed.lean ====
section
/-! DEFINITION. What is well-formed: a request whose selector is not the reserved one (rule R61).

An instruction has no ill-formed operands: every natural is allowed (rule R6), and what a rule masks or drops still has a
defined result (rule R202). The document's narrower contract, the caller's INTENDED use (conflict C4), is a predicate of
its own and no condition of well-formedness. -/

namespace Sys2Proof

/-- A request that selects one of the three operations; `0b11` is reserved and selects nothing (rules R60, R61). -/
def Request.wellFormed (req : Request) : Bool :=
  req.op != 0b11#2

/-- Every instruction is well-formed: its operands are unbounded naturals (rule R6). -/
def Instr.wellFormed : Instr → Bool
  | .updateFrequency _ _ => true
  | .updateNoise _ _ => true
  | .updateAttenuation _ _ => true

/-- The document's contract, the caller's intended use: a tone channel and a 10-bit divisor (rule R100); a 1-bit feedback
and a 2-bit shift (rule R120); one of four channels and an even dB value of 0 to 30 (rule R140). Conflict C4: values
outside it still have a defined result. DEDUCED, safe (log entry 16). -/
def Instr.inContract : Instr → Bool
  | .updateFrequency channel divisor => channel < Config.numToneChannels && divisor < 2 ^ Config.divWidth
  | .updateNoise feedback shift => feedback < 2 ^ Config.fbWidth && shift < 2 ^ Config.shWidth
  | .updateAttenuation channel db => channel < Config.numChannels && db % Config.dbStep == 0 && db ≤ 30

end Sys2Proof
end

