-- ==== Sys2Proof/Decode.lean ====
section
/-! DEFINITION. The decoder, total on every request and rejecting by name, and the encoder after it (rules R60, R61).

The encoded form of an instruction is the request record `(op, arg0, arg1)`. The spec gives the operands no bits of a
machine word (`opcode_table.json`: "unsigned natural, unbounded"), so the selector is the only bit field. -/

namespace Sys2Proof

/-- The selector values of rule R60, in the order of the document's sections (decision D2). -/
def selFrequency : Selector := 0b00#2

/-- Rule R60. -/
def selNoise : Selector := 0b01#2

/-- Rule R60. -/
def selAttenuation : Selector := 0b10#2

/-- Why a request decodes to no instruction. -/
inductive DecodeError where
  /-- `op = 0b11`: the document has three entry points, so the selector selects nothing (rule R61). Safe. -/
  | reservedOp
  deriving DecidableEq, Repr

/-- The instruction a request stands for, or the reason there is none (rules R60, R61). -/
def decode (req : Request) : Except DecodeError Instr :=
  if req.op = selFrequency then .ok (.updateFrequency req.arg0 req.arg1)
  else if req.op = selNoise then .ok (.updateNoise req.arg0 req.arg1)
  else if req.op = selAttenuation then .ok (.updateAttenuation req.arg0 req.arg1)
  else .error .reservedOp

/-- The request that stands for an instruction (rule R60). -/
def encode : Instr → Request
  | .updateFrequency channel divisor => { op := selFrequency, arg0 := channel, arg1 := divisor }
  | .updateNoise feedback shift => { op := selNoise, arg0 := feedback, arg1 := shift }
  | .updateAttenuation channel db => { op := selAttenuation, arg0 := channel, arg1 := db }

/-- The instructions of a list of requests, in order, or the reason the first reserved one has no meaning (rules R24,
R29: one refused request refuses the whole run). -/
def decodeProgram : List Request → Except DecodeError (List Instr)
  | [] => .ok []
  | req :: rest =>
    match decode req with
    | .error e => .error e
    | .ok i =>
      match decodeProgram rest with
      | .error e => .error e
      | .ok is => .ok (i :: is)

/-- The request of a word numbered as `opcode_table.json` numbers it: bits 1:0 are the selector, and the operands, which
the table gives no bits, are 0. The table gives a row only the selector's two bits; the rest of the byte they stand in is
no part of a request and is not read. DESIGN CHOICE, safe (log entry 3). -/
def Request.ofTableWord (nbits w : Nat) : Request :=
  { op := BitVec.ofNat 2 (w % 2 ^ nbits), arg0 := 0, arg1 := 0 }

/-- The instruction the decoder reads from such a word; none where it refuses (rule R61). -/
def decodeTableWord (nbits w : Nat) : Option Instr :=
  match decode (Request.ofTableWord nbits w) with
  | .ok i => some i
  | .error _ => none

end Sys2Proof
end

