-- ==== Sys2Proof/Machine/State.lean ====
section
/-! DEFINITION. The state of the machine, its state after reset, and the reasons a step can stop.

The block itself holds nothing between requests (rule R20). What the spec gives the MODEL is the caller's list of
requests, the position in it (rule R24) and the output stream (rule R28). -/

namespace Sys2Proof.Machine

/-- The block has no fault: it raises nothing and takes no trap (rule R200), and a step has "no fault outcome" and "no
stuck state" (rule R214). So this type has no constructor, and none can be raised. UNVERIFIED, unsafe where the real block
can fail (log entry 6). -/
inductive Fault where
  deriving DecidableEq, Repr

/-- Why a step gives a request no meaning. -/
inductive Refusal where
  /-- Raised by an arm of `exec` for an instruction that has no meaning yet. Safe. No arm raises it. -/
  | notModelled (mnemonic : String)
  /-- Raised by `step` for a request with the reserved selector `op = 0b11`, which the model refuses and does not treat
  as a no-op (rules R61, R214; decision D3). Safe. -/
  | reservedOp
  deriving DecidableEq, Repr

/-- Everything the spec gives the machine. No field stands for the chip's registers: they are outside the block and
their state is opaque (rules R4, R26, R241; log entry 12). -/
structure State where
  /-- The finite list of requests the caller issues in order (rules R24, R211). -/
  program : List Request
  /-- The index of the next request; one more per request served (rule R24). -/
  pos : Nat
  /-- Every byte handed to the transport, oldest first (rule R28). -/
  out : List Byte
  deriving DecidableEq, Repr

/-- The state after reset: `out = []` and position 0 (rules R31, R240). The spec gives no list of requests at reset:
nothing has been issued. DESIGN CHOICE, unsafe (log entry 2). -/
def State.reset : State :=
  { program := [], pos := 0, out := [] }

end Sys2Proof.Machine
end

