-- ==== Sys2Proof/Machine/Ops.lean ====
section
/-! DEFINITION. The shared operations: bit fields of naturals, the two byte formats, transmitting, dropping, serving a
request, and fetching the next one.

There is no exception to take and none to return from (rules R200, R206, R207). What the block does instead with a request
for a register that does not exist is `silentDrop`. -/

namespace Sys2Proof.Machine

/-- Bits `hi` down to `lo` of a natural, as a natural (rule R7). -/
def slice (v hi lo : Nat) : Nat :=
  v / 2 ^ lo % 2 ^ (hi - lo + 1)

/-- The latch format `1aaadddd` (rule R62). -/
def latch (reg : BitVec 3) (d4 : BitVec 4) : Byte :=
  Config.latchMark ++ reg ++ d4

/-- The data format `00llllll` (rule R63). -/
def data (d6 : BitVec 6) : Byte :=
  Config.dataMark ++ 0#1 ++ d6

/-- `Transmit(b)`: hands one byte to the transport, which always takes it (rules R8, R28, R210). It is the only side
effect in the block. -/
def State.transmit (b : Byte) (s : State) : State :=
  { s with out := s.out ++ [b] }

/-- Transmits the bytes of a request one after another, in the order listed (rules R29, R44, R51). -/
def State.transmitAll (bs : List Byte) (s : State) : State :=
  bs.foldl (fun t b => t.transmit b) s

/-- Moves on to the next request, whatever the served one emitted (rules R24, R201). -/
def State.advance (s : State) : State :=
  { s with pos := s.pos + 1 }

/-- Serves one request whose bytes are `bs`: all of them are appended in the one step (rules R29, R48). -/
def State.serve (bs : List Byte) (s : State) : State :=
  (s.transmitAll bs).advance

/-- The bytes of a request for a register that does not exist: none, and nothing is reported (rules R68, R201). -/
def silentDrop : List Byte :=
  []

/-- The request the caller issues next, none when it has issued all of its list (rule R24). -/
def State.nextRequest (s : State) : Option Request :=
  s.program[s.pos]?

/-- What a step does when no request is left: the block is idle between requests and holds no state (rule R215).
DESIGN CHOICE, unsafe (log entry 1). -/
def State.idle (s : State) : State :=
  s

/-- The refusal of a request that decodes to nothing (rules R61, R214). -/
def refusalOf : DecodeError → Refusal
  | .reservedOp => .reservedOp

/-- The caller's list with `req` at the position `pos`. Where the list is shorter than `pos`, which no run reaches, the
gap is filled with `req`. DESIGN CHOICE, safe (log entry 4). -/
def placeRequest (program : List Request) (pos : Nat) (req : Request) : List Request :=
  program.take pos ++ List.replicate (pos - program.length) req ++ req :: program.drop (pos + 1)

/-- The state in which the caller is about to issue the list `program`: the start of a run (rules R24, R240). -/
def State.load (program : List Request) : State :=
  { State.reset with program := program }

end Sys2Proof.Machine
end

