-- ==== Sys2Proof/Machine/Operands.lean ====
section
/-! DEFINITION. Operand assembly: how each operand becomes a field of a byte, and the two range checks (rules R66, R67).
Addresses are naturals here: they are checked in full precision, before any narrowing to 3 bits. -/

namespace Sys2Proof.Machine

/-- The address UPDATE_FREQUENCY computes (rules R67, R100). -/
def freqAddr (channel : Nat) : Nat :=
  channel * 2

/-- The address UPDATE_ATTENUATION computes (rules R67, R140). -/
def attenAddr (channel : Nat) : Nat :=
  channel * 2 + 1

/-- UPDATE_FREQUENCY's range check, on the full value: below the noise-control register (rule R101; conflict C1). -/
def freqAddrExists (reg : Nat) : Bool :=
  reg < Config.addrNoiseCtrl

/-- UPDATE_ATTENUATION's range check, on the full value: at most the highest address (rule R141). -/
def attenAddrExists (reg : Nat) : Bool :=
  reg ≤ Config.addrMax

/-- The divisor with all but its low 10 bits discarded (rule R105). -/
def maskDivisor (divisor : Nat) : Nat :=
  divisor % 2 ^ Config.divWidth

/-- Divisor bits 9 to 6, the latch byte's field (rules R66, R102). -/
def divisorHigh (divisor : Nat) : BitVec 4 :=
  BitVec.ofNat 4 (slice (maskDivisor divisor) 9 6)

/-- Divisor bits 5 to 0, the data byte's field (rules R66, R103). -/
def divisorLow (divisor : Nat) : BitVec 6 :=
  BitVec.ofNat 6 (slice (maskDivisor divisor) 5 0)

/-- The feedback masked to its low bit (rules R66, R121). -/
def feedbackBit (feedback : Nat) : BitVec 1 :=
  BitVec.ofNat 1 (feedback &&& 1)

/-- The shift rate masked to its low two bits (rules R66, R121). -/
def shiftBits (shift : Nat) : BitVec 2 :=
  BitVec.ofNat 2 (shift &&& 3)

/-- The noise-control latch field `0 ‖ feedback ‖ shift`: bit 3 is always 0 (rules R62, R69). -/
def noiseField (feedback shift : Nat) : BitVec 4 :=
  0#1 ++ feedbackBit feedback ++ shiftBits shift

/-- The attenuation field of a dB value: half of it, rounded down, masked to 4 bits (rules R66, R142). -/
def attenField (db : Nat) : BitVec 4 :=
  BitVec.ofNat 4 (db / Config.dbStep &&& 0xF)

end Sys2Proof.Machine
end

