-- ==== Sys2Proof/Machine/Attenuation.lean ====
section
/-! DEFINITION. UPDATE_ATTENUATION (rules R140 to R144). -/

namespace Sys2Proof.Machine

/-- `bytes(ATTEN, channel, db)` (rule R140): nothing for a channel beyond 3, else one latch byte (rules R141, R144). -/
def bytesAttenuation (channel db : Nat) : List Byte :=
  if attenAddrExists (attenAddr channel) then
    [latch (BitVec.ofNat 3 (attenAddr channel)) (attenField db)]
  else silentDrop

/-- UPDATE_ATTENUATION (rule R140). -/
def execUpdateAttenuation (channel db : Nat) (s : State) : Host.Outcome State Fault Refusal :=
  .next (s.serve (bytesAttenuation channel db))

end Sys2Proof.Machine
end

