-- ==== Sys2Proof/Machine/Frequency.lean ====
section
/-! DEFINITION. UPDATE_FREQUENCY (rules R100 to R106). -/

namespace Sys2Proof.Machine

/-- `bytes(FREQ, channel, divisor)` (rule R100): nothing for a channel with no frequency register, else the latch byte
with divisor bits 9–6 and then the data byte with bits 5–0, always both (rules R102 to R104; conflicts C2, C3). -/
def bytesFrequency (channel divisor : Nat) : List Byte :=
  if freqAddrExists (freqAddr channel) then
    [latch (BitVec.ofNat 3 (freqAddr channel)) (divisorHigh divisor), data (divisorLow divisor)]
  else silentDrop

/-- UPDATE_FREQUENCY (rule R100). -/
def execUpdateFrequency (channel divisor : Nat) (s : State) : Host.Outcome State Fault Refusal :=
  .next (s.serve (bytesFrequency channel divisor))

end Sys2Proof.Machine
end

