-- ==== Sys2Proof/Machine/Noise.lean ====
section
/-! DEFINITION. UPDATE_NOISE (rules R120 to R122). -/

namespace Sys2Proof.Machine

/-- `bytes(NOISE, feedback, shift)` (rule R120): exactly one latch byte, for every operand (rules R121, R122). -/
def bytesNoise (feedback shift : Nat) : List Byte :=
  [latch (BitVec.ofNat 3 Config.addrNoiseCtrl) (noiseField feedback shift)]

/-- UPDATE_NOISE (rule R120). -/
def execUpdateNoise (feedback shift : Nat) (s : State) : Host.Outcome State Fault Refusal :=
  .next (s.serve (bytesNoise feedback shift))

end Sys2Proof.Machine
end

