-- ==== Sys2Proof/Machine/Dispatch.lean ====
section
/-! DEFINITION. One arm per operation (rule R60). -/

namespace Sys2Proof.Machine

def exec (i : Instr) (s : State) : Host.Outcome State Fault Refusal :=
  match i with
  | .updateFrequency channel divisor => Sys2Proof.Machine.execUpdateFrequency channel divisor s
  | .updateNoise feedback shift => Sys2Proof.Machine.execUpdateNoise feedback shift s
  | .updateAttenuation channel db => Sys2Proof.Machine.execUpdateAttenuation channel db s

end Sys2Proof.Machine
end

