-- ==== Sys2Proof/Machine/Step.lean ====
section
/-! DEFINITION. One step: serving one request (rules R29, R214). -/

namespace Sys2Proof.Machine

/-- Serves the next request of the caller's list: the operation it selects runs, and the reserved selector is refused
(rules R29, R61, R214). With no request left the block idles (log entry 1). -/
def step (s : State) : Host.Outcome State Fault Refusal :=
  match s.nextRequest with
  | none => .next s.idle
  | some req =>
    match decode req with
    | .error e => .refused (refusalOf e)
    | .ok i => exec i s

/-- `s` with the request of a table word placed where `step` fetches its next request: it stands for the caller issuing
it. A program is loaded from outside the machine, since the block runs none of its own (rule R24; log entries 2 to 4). -/
def State.withFetchWord (s : State) (nbits w : Nat) : State :=
  { s with program := placeRequest s.program s.pos (Request.ofTableWord nbits w) }

end Sys2Proof.Machine
end

