-- ==== Sys2Proof/Machine/Assembler.lean ====
section
/-! DEFINITION. The call notation in which programs are written, `update_frequency(<channel>, <divisor>)` and so on, one
request per line, with decimal or `0x` hexadecimal natural literals (rule R72; decision D17). It has no effect on what a
request does. A line is a list of characters. -/

namespace Sys2Proof.Machine

/-- `update_`, with which every call name begins (rule R60). -/
def nameUpdate : List Char :=
  ['u', 'p', 'd', 'a', 't', 'e', '_']

/-- `update_frequency` (rules R60, R72). -/
def nameFrequency : List Char :=
  nameUpdate ++ ['f', 'r', 'e', 'q', 'u', 'e', 'n', 'c', 'y']

/-- `update_noise` (rules R60, R72). -/
def nameNoise : List Char :=
  nameUpdate ++ ['n', 'o', 'i', 's', 'e']

/-- `update_attenuation` (rules R60, R72). -/
def nameAttenuation : List Char :=
  nameUpdate ++ ['a', 't', 't', 'e', 'n', 'u', 'a', 't', 'i', 'o', 'n']

/-- The call name of an instruction. -/
def callName : Instr → List Char
  | .updateFrequency _ _ => nameFrequency
  | .updateNoise _ _ => nameNoise
  | .updateAttenuation _ _ => nameAttenuation

/-- The value of a digit, letters standing for ten to fifteen in either case. -/
def digitValue (c : Char) : Option Nat :=
  if '0' ≤ c ∧ c ≤ '9' then some (c.toNat - '0'.toNat)
  else if 'a' ≤ c ∧ c ≤ 'f' then some (c.toNat - 'a'.toNat + 10)
  else if 'A' ≤ c ∧ c ≤ 'F' then some (c.toNat - 'A'.toNat + 10)
  else none

/-- The value of the digits of a literal, most significant first; none where one is no digit of the base. -/
def digitsValue (base : Nat) : Nat → List Char → Option Nat
  | acc, [] => some acc
  | acc, c :: cs =>
    match digitValue c with
    | none => none
    | some d => if d < base then digitsValue base (acc * base + d) cs else none

/-- A natural literal: `0x` and hexadecimal digits, or decimal digits (rules R7, R72). -/
def readLiteral : List Char → Option Nat
  | [] => none
  | '0' :: 'x' :: c :: cs => digitsValue 16 0 (c :: cs)
  | c :: cs => digitsValue 10 0 (c :: cs)

/-- The instruction of a call name and two operands (rule R60). -/
def instrOfCall (name : List Char) (arg0 arg1 : Nat) : Option Instr :=
  if name = nameFrequency then some (.updateFrequency arg0 arg1)
  else if name = nameNoise then some (.updateNoise arg0 arg1)
  else if name = nameAttenuation then some (.updateAttenuation arg0 arg1)
  else none

/-- One line, exactly `name(literal, literal)`. DESIGN CHOICE, safe: no other spacing is read (log entry 17). -/
def readLine (line : List Char) : Option Instr :=
  match line.dropWhile (· != '(') with
  | '(' :: rest =>
    match rest.dropWhile (· != ',') with
    | ',' :: ' ' :: rest' =>
      if rest'.dropWhile (· != ')') = [')'] then
        match readLiteral (rest.takeWhile (· != ',')), readLiteral (rest'.takeWhile (· != ')')) with
        | some arg0, some arg1 => instrOfCall (line.takeWhile (· != '(')) arg0 arg1
        | _, _ => none
      else none
    | _ => none
  | _ => none

/-- The operands in the order of the call (rule R60). -/
def callArgs (i : Instr) : Nat × Nat :=
  ((encode i).arg0, (encode i).arg1)

/-- The line of an instruction, its operands in decimal (rule R72). -/
def writeLine (i : Instr) : List Char :=
  callName i ++ '(' :: Nat.toDigits 10 (callArgs i).1 ++ ',' :: ' ' :: Nat.toDigits 10 (callArgs i).2 ++ [')']

/-- A program, one request per line (rule R72); none where a line is no call. -/
def assemble : List (List Char) → Option (List Request)
  | [] => some []
  | line :: rest =>
    match readLine line, assemble rest with
    | some i, some reqs => some (encode i :: reqs)
    | _, _ => none

end Sys2Proof.Machine
end

