-- ==== Sys2Proof/Machine/Flags.lean ====
section
/-! DEFINITION. Flags: the block has none. No operation sets a status, carry, error or done flag (rule R25), and no status
is returned (rule R203). The one condition a flag could have recorded, the one error class of rule R201, is defined here
as an observation; no step stores it. -/

namespace Sys2Proof

/-- The one error class: a request for a register that does not exist (rules R68, R201). UPDATE_NOISE has no such
condition. -/
def Instr.targetsMissingRegister : Instr → Bool
  | .updateFrequency channel _ => !Machine.freqAddrExists (Machine.freqAddr channel)
  | .updateNoise _ _ => false
  | .updateAttenuation channel _ => !Machine.attenAddrExists (Machine.attenAddr channel)

end Sys2Proof
end

