-- ==== Sys2Proof/Machine/Layout.lean ====
section
/-! DEFINITION. The register-layout table of the block (rule R21): the names, addresses, owners and field widths of the
chip's eight registers, and the request that writes each. The chip's registers themselves are outside the block (rule R26):
the block only names them, in the address field of a latch byte. -/

namespace Sys2Proof.Machine

/-- The eight registers of the chip, in address order (rules R21, R42). -/
inductive PsgReg where
  | tone0Freq
  | tone0Atten
  | tone1Freq
  | tone1Atten
  | tone2Freq
  | tone2Atten
  | noiseCtrl
  | noiseAtten
  deriving DecidableEq, Repr

/-- The 3-bit address of a register (rule R21). -/
def PsgReg.addr : PsgReg → BitVec 3
  | .tone0Freq => 0b000#3
  | .tone0Atten => 0b001#3
  | .tone1Freq => 0b010#3
  | .tone1Atten => 0b011#3
  | .tone2Freq => 0b100#3
  | .tone2Atten => 0b101#3
  | .noiseCtrl => 0b110#3
  | .noiseAtten => 0b111#3

/-- The channel that owns a register (rule R21). -/
def PsgReg.owner : PsgReg → Nat
  | .tone0Freq => 0
  | .tone0Atten => 0
  | .tone1Freq => 1
  | .tone1Atten => 1
  | .tone2Freq => 2
  | .tone2Atten => 2
  | .noiseCtrl => 3
  | .noiseAtten => 3

/-- How many bits of setting a register receives from the block, informative (rule R27): a 10-bit divisor, a 4-bit
attenuation, or 1 bit of feedback and 2 of shift. -/
def PsgReg.fieldWidth : PsgReg → Nat
  | .tone0Freq | .tone1Freq | .tone2Freq => Config.divWidth
  | .noiseCtrl => Config.fbWidth + Config.shWidth
  | .tone0Atten | .tone1Atten | .tone2Atten | .noiseAtten => Config.attWidth

/-- The request that writes a register (rule R21, "Written by"). A noise-control request takes both operands, the others
take the first. -/
def PsgReg.writtenBy (r : PsgReg) (x y : Nat) : Instr :=
  match r with
  | .tone0Freq | .tone1Freq | .tone2Freq => .updateFrequency r.owner x
  | .noiseCtrl => .updateNoise x y
  | .tone0Atten | .tone1Atten | .tone2Atten | .noiseAtten => .updateAttenuation r.owner x

end Sys2Proof.Machine
end

