-- ==== Sys2Proof/Machine/Reading.lean ====
section
/-! DEFINITION. What the fields mean to the chip, INFORMATIVE (rules R107, R123, R143). No rule of the block reads any of
this, and nothing here is called by `step`: the block passes the bits through unchanged. -/

namespace Sys2Proof.Machine

/-- The two kinds of noise (rule R123). -/
inductive NoiseKind where
  | periodic
  | white
  deriving DecidableEq, Repr

/-- The four shift-clock sources (rule R123). -/
inductive ShiftSource where
  | clockOver512
  | clockOver1024
  | clockOver2048
  | tone2Output
  deriving DecidableEq, Repr

/-- What the feedback bit selects (rule R123). -/
def noiseKindOf (feedback : BitVec 1) : NoiseKind :=
  if feedback = 0#1 then .periodic else .white

/-- What a shift code selects, read in the order the document lists the sources (rule R123; decision D19). PRESUMED,
unsafe for a claim about the chip (log entry 14). -/
def shiftSourceOf (shift : BitVec 2) : ShiftSource :=
  if shift = 0#2 then .clockOver512
  else if shift = 1#2 then .clockOver1024
  else if shift = 2#2 then .clockOver2048
  else .tone2Output

/-- The decibels of attenuation of a field: 2 per unit from 0 to 14, and none (OFF, silence) at 15 (rule R143). -/
def decibelsOf (field : BitVec 4) : Option Nat :=
  if field = 15#4 then none else some (field.toNat * Config.dbStep)

/-- The output frequency of a divisor at a clock, `clockHz / (32 × divisor)`, undefined at divisor 0 (rule R107). It is
the frequency of the divisor GIVEN, as an exact rational. The spec states the formula for a 10-bit divisor (rule R9) and no
frequency at 1024 and above; there the model applies the formula to the number as it stands, unmasked, so that 1024 reads
as `clockHz / 32768` although the block sends it as divisor 0 (rule R105). DESIGN CHOICE, unsafe for a claim about the
chip's sound (log entry 22). -/
def outputFrequency (clockHz divisor : Nat) : Option Rat :=
  if divisor = 0 then none else some ((clockHz : Rat) / (32 * (divisor : Rat)))

end Sys2Proof.Machine
end

