-- ==== Sys2Proof/Machine/Stream.lean ====
section
/-! DEFINITION. The output stream as a reader sees it: the bytes of each operation, the closed set of byte values
(rule R65), the cut of a stream into requests (rule R64), and the settings read back from each group (rules R45, R62,
R63). The block itself reads none of this: `out` is only ever appended to (rules R20, R28). -/

namespace Sys2Proof

/-- `bytes(req)` of a request that selects an operation (rules R29, R100, R120, R140). -/
def Instr.bytes : Instr → List Byte
  | .updateFrequency channel divisor => Machine.bytesFrequency channel divisor
  | .updateNoise feedback shift => Machine.bytesNoise feedback shift
  | .updateAttenuation channel db => Machine.bytesAttenuation channel db

/-- `accepted(req) := bytes(req) ≠ []`, an observation of the model that no port of the block carries (rule R203). -/
def Instr.accepted (i : Instr) : Bool :=
  !i.bytes.isEmpty

/-- The instruction within the masks that emits the same bytes: the divisor mod 1024 (rule R105), feedback and shift mod
2 and 4 (rule R121), and the even dB value below 32 with the same field (rule R142); that the even one stands for the
field is a DESIGN CHOICE, safe (log entry 18). -/
def Instr.masked : Instr → Instr
  | .updateFrequency channel divisor => .updateFrequency channel (divisor % 1024)
  | .updateNoise feedback shift => .updateNoise (feedback % 2) (shift % 4)
  | .updateAttenuation channel db => .updateAttenuation channel (db / 2 % 16 * 2)

namespace Machine

/-- The byte values the block can emit (rule R65). -/
def emittable (b : Byte) : Bool :=
  b.toNat ≤ 0x3F || (0x80 ≤ b.toNat && b.toNat ≤ 0xE7) || 0xF0 ≤ b.toNat

/-- Bit 7 says which format a byte has: 1 is a latch byte (rules R62, R64). -/
def isLatchByte (b : Byte) : Bool :=
  b.getLsbD 7

/-- The address field of a latch byte, bits 6–4 (rule R62). -/
def addrField (b : Byte) : BitVec 3 :=
  b.extractLsb' 4 3

/-- The data field of a latch byte, bits 3–0 (rule R62). -/
def latchField (b : Byte) : BitVec 4 :=
  b.extractLsb' 0 4

/-- The data field of a data byte, bits 5–0 (rule R63). -/
def dataField (b : Byte) : BitVec 6 :=
  b.extractLsb' 0 6

/-- A latch byte for a frequency register, which a data byte follows: address 0, 2 or 4 (rule R64). -/
def startsPair (b : Byte) : Bool :=
  isLatchByte b && (addrField b == 0#3 || addrField b == 2#3 || addrField b == 4#3)

/-- The bytes of one request in a stream (rule R64). -/
inductive ByteGroup where
  /-- A frequency latch byte and its data byte. -/
  | pair (first second : Byte)
  /-- Any other latch byte. -/
  | single (only : Byte)
  deriving DecidableEq, Repr

/-- The bytes of a group, in stream order. -/
def ByteGroup.toBytes : ByteGroup → List Byte
  | .pair first second => [first, second]
  | .single only => [only]

/-- Cuts a stream into requests (rule R64). None where it holds what never occurs in a run of the block alone: a data byte
that follows no frequency latch byte, or such a latch byte that no data byte follows. DESIGN CHOICE, safe (log entry 18). -/
def cutStream : List Byte → Option (List ByteGroup)
  | [] => some []
  | [b] => if isLatchByte b && !startsPair b then some [.single b] else none
  | b :: d :: rest =>
    if startsPair b then
      if isLatchByte d then none else (cutStream rest).map (ByteGroup.pair b d :: ·)
    else if isLatchByte b then (cutStream (d :: rest)).map (ByteGroup.single b :: ·)
    else none

/-- The divisor that the two bytes of a frequency request carry (rule R45). -/
def joinDivisor (first second : Byte) : Nat :=
  ((first.toNat &&& 0x0F) <<< 6) ||| (second.toNat &&& 0x3F)

/-- The request a group stands for, its operands within the masks (rules R45, R62, R63). None for a byte value the block
never emits: a data byte with bit 6 set, a noise-control byte with bit 3 set (rule R65). The dB value of a field is taken
even; a reader cannot tell `2k` from `2k + 1` (rule R246). DESIGN CHOICE, safe (log entry 18). -/
def readGroup : ByteGroup → Option Instr
  | .pair first second =>
    if startsPair first && second.toNat ≤ 0x3F then
      some (.updateFrequency ((addrField first).toNat / 2) (joinDivisor first second))
    else none
  | .single only =>
    if !isLatchByte only || startsPair only || !emittable only then none
    else if addrField only == 6#3 then
      some (.updateNoise ((latchField only).toNat / 4) ((latchField only).toNat % 4))
    else some (.updateAttenuation ((addrField only).toNat / 2) ((latchField only).toNat * 2))

/-- The requests a stream was made from, as far as a reader of the stream can tell (rules R45, R64). -/
def readStream (bs : List Byte) : Option (List Instr) :=
  match cutStream bs with
  | none => none
  | some groups => groups.mapM readGroup

end Machine

end Sys2Proof
end

