-- ==== Sys2Proof/Safety.lean ====
section
/-! DEFINITION. What a safe run is, in the terms the statements use. -/

namespace Sys2Proof.Machine

/-- `k` steps, stopping at the first refusal, which then is the outcome of the whole run (rules R29, R214). It is the
run of the host's interface on this machine (`run_core_eq_runFor`, Laws/Exec.lean). -/
def runFor : Nat → State → Host.Outcome State Fault Refusal
  | 0, s => .next s
  | k + 1, s =>
    match step s with
    | .next t => runFor k t
    | .fault f => .fault f
    | .refused r => .refused r

/-- No request still to be issued is refused, so the whole run completes (rules R29, R214). -/
def State.safe (s : State) : Prop :=
  ∀ req ∈ s.program.drop s.pos, req.wellFormed = true

/-- The position lies in the caller's list, or just past it (rule R24). -/
def State.posInList (s : State) : Prop :=
  s.pos ≤ s.program.length

/-- What a run from `out = []` at position 0 leaves (rules R24, R29, R31): the position lies in the list, every request
served selected an operation, and `out` is the bytes of the requests served, in order, and nothing else. -/
def State.consistent (s : State) : Prop :=
  s.posInList ∧
    ∃ is, decodeProgram (s.program.take s.pos) = .ok is ∧ s.out = is.flatMap Instr.bytes

/-- The output stream is one the block alone can have sent: it cuts into whole requests, no two-byte sequence is torn,
and every byte value is one the block emits (rules R64, R65, R243). -/
def State.streamWhole (s : State) : Prop :=
  (readStream s.out).isSome = true

end Sys2Proof.Machine
end

