-- ==== Sys2Proof/Certificates/Slice0/Obligations.lean ====
section
/-! DEFINITION. The statements for the provers. Bytes are stated as numbers in the spec's own arithmetic (rule R7), not
through the model's field functions; `.next { s with … }` says the whole next state, so what it does not name is unchanged. -/

open Sys2Proof Sys2Proof.Machine

/-! ### Reset, decoding, stepping -/

/-- The spec's decisions D11 and D12 (rules R31, R240): after reset `out` is empty and the position is 0. -/
def Obligations.ResetHasEmptyOutputAtPositionZero : Prop :=
  State.reset.out = [] ∧ State.reset.pos = 0

/-- Words written out from the request format (rule R60, the spec's decision D2) and the opcode table (log entry 3)
decode to the operation they stand for; the reserved one to none. -/
def Obligations.TableWordsDecodeToTheirOperation : Prop :=
  decode { op := 0b00#2, arg0 := 2, arg1 := 0x155 } = .ok (.updateFrequency 2 0x155) ∧
  decode { op := 0b01#2, arg0 := 1, arg1 := 2 } = .ok (.updateNoise 1 2) ∧
  decode { op := 0b10#2, arg0 := 3, arg1 := 30 } = .ok (.updateAttenuation 3 30) ∧
  decode { op := 0b11#2, arg0 := 5, arg1 := 1000 } = .error .reservedOp ∧
  decodeTableWord 8 0b00 = some (.updateFrequency 0 0) ∧
  decodeTableWord 8 0b01 = some (.updateNoise 0 0) ∧
  decodeTableWord 8 0b10 = some (.updateAttenuation 0 0) ∧
  decodeTableWord 8 0b11 = none

/-- The request format, the spec's decisions D2 to D4 (rules R6, R60, R61; log entries 8 and 20): each request that is
not reserved stands for exactly one instruction and each instruction for exactly one request, with every operand kept;
the reserved selector stands for none. -/
def Obligations.DecodeAndEncodeAgreeBothWays : Prop :=
  (∀ (i : Instr) (req : Request), decode req = .ok i ↔ encode i = req) ∧
  (∀ req : Request, decode req = .error .reservedOp ↔ req.op = 0b11#2)

/-- The step, the spec's decisions D7 and D11 (rules R24, R29): a step runs the instruction that the request at the
position decodes to; nothing stands around it. -/
def Obligations.StepRunsTheDecodedInstruction : Prop :=
  ∀ (s : State) (req : Request) (i : Instr),
    s.program[s.pos]? = some req → decode req = .ok i → step s = exec i s

/-- The MODEL'S choice (log entry 1), which rests on rule R215's "Between requests it is idle": with no request left a
step changes nothing. -/
def Obligations.StepIdlesWhenNoRequestIsLeft : Prop :=
  ∀ s : State, s.program.length ≤ s.pos → step s = .next s

/-- The model's placing of a request (log entries 2 to 4): the very next step runs the placed instruction. -/
def Obligations.PlacedRequestRunsNext : Prop :=
  ∀ (s : State) (nbits w : Nat) (i : Instr), decodeTableWord nbits w = some i →
    step (s.withFetchWord nbits w) = exec i (s.withFetchWord nbits w)

/-- The spec's decision D3 (rule R61): a request with the reserved selector is refused, and is no no-op. -/
def Obligations.ReservedSelectorIsRefused : Prop :=
  ∀ (s : State) (req : Request), s.program[s.pos]? = some req → req.op = 0b11#2 →
    step s = .refused .reservedOp

/-- The spec's decision D3 (rule R214; log entries 5 and 6): a served request has exactly two outcomes. A refusal
stays on the run for as long as it goes on; there is no fault. -/
def Obligations.StepHasExactlyTwoOutcomes : Prop :=
  (∀ (s : State) (req : Request), s.program[s.pos]? = some req →
    (req.op ≠ 0b11#2 → ∃ i, decode req = .ok i ∧
      step s = .next { s with out := s.out ++ i.bytes, pos := s.pos + 1 }) ∧
    (req.op = 0b11#2 → ∀ k, runFor (k + 1) s = .refused .reservedOp)) ∧
  (∀ (s : State) (f : Fault), step s ≠ .fault f)

/-- The spec's decision D11 (rule R24): the position advances by one per request served, whatever it emits, and does
not wrap around; the list is unchanged. -/
def Obligations.PositionAdvancesByOnePerRequest : Prop :=
  ∀ (s : State) (req : Request), s.program[s.pos]? = some req → req.op ≠ 0b11#2 →
    ∃ t, step s = .next t ∧ t.pos = s.pos + 1 ∧ t.program = s.program

/-! ### Transmitting -/

/-- The spec's decision D6 (rule R28): `Transmit` appends one byte, and no step removes or rewrites an element of
`out`. -/
def Obligations.OutputStreamOnlyGrows : Prop :=
  (∀ (b : Byte) (s : State), s.transmit b = { s with out := s.out ++ [b] }) ∧
  (∀ s t : State, step s = .next t → ∃ bs, t.out = s.out ++ bs)

/-- Rule R20: what a request emits depends on that request's operands alone, not on the state. Every instruction
completes from every state. -/
def Obligations.EmissionDependsOnTheRequestAlone : Prop :=
  ∀ i : Instr, ∃ bs : List Byte, ∀ s : State,
    exec i s = .next { s with out := s.out ++ bs, pos := s.pos + 1 }

/-- Rule R49, whose last sentence the spec marks derived: the same request served twice emits the same bytes both
times, and the second call appends them again. -/
def Obligations.RepeatedRequestAppendsItsBytesAgain : Prop :=
  ∀ (i : Instr) (s : State), ∃ (bs : List Byte) (t u : State),
    exec i s = .next t ∧ t.out = s.out ++ bs ∧ exec i t = .next u ∧ u.out = s.out ++ bs ++ bs

/-- Frame of the three operations (rules R24, R28; the spec's decisions D6 and D11): the list of requests is
unchanged, what was sent stays sent, and the position moves on by one. -/
def Obligations.RequestsLeaveListAndSentBytesAlone : Prop :=
  ∀ (i : Instr) (s t : State), exec i s = .next t →
    t.program = s.program ∧ t.out.take s.out.length = s.out ∧ t.pos = s.pos + 1

/-- Rule R47: how many transmits one request issues. -/
def Obligations.RequestsIssueZeroOneOrTwoTransmits : Prop :=
  (∀ (channel divisor : Nat) (s : State), ∃ bs : List Byte,
    exec (.updateFrequency channel divisor) s = .next { s with out := s.out ++ bs, pos := s.pos + 1 } ∧
    bs.length = if channel ≤ 2 then 2 else 0) ∧
  (∀ (feedback shift : Nat) (s : State), ∃ bs : List Byte,
    exec (.updateNoise feedback shift) s = .next { s with out := s.out ++ bs, pos := s.pos + 1 } ∧
    bs.length = 1) ∧
  (∀ (channel db : Nat) (s : State), ∃ bs : List Byte,
    exec (.updateAttenuation channel db) s = .next { s with out := s.out ++ bs, pos := s.pos + 1 } ∧
    bs.length = if channel ≤ 3 then 1 else 0)

/-- Rules R62, R63: the two byte formats as numbers, for every field value. -/
def Obligations.ByteFormatsAreTheSpecsFormulas : Prop :=
  (∀ (reg : BitVec 3) (d4 : BitVec 4), (latch reg d4).toNat = 0x80 ||| (reg.toNat <<< 4) ||| d4.toNat) ∧
  (∀ d6 : BitVec 6, (data d6).toNat = d6.toNat ∧ (data d6).getLsbD 7 = false ∧ (data d6).getLsbD 6 = false)

/-! ### UPDATE_FREQUENCY -/

/-- Rules R100, R102 to R104: an accepted request transmits the latch byte and then the data byte, and completes; a
request whose address is 6 or more emits nothing, and completes. -/
def Obligations.FrequencyTransmitsLatchThenDataByte : Prop :=
  ∀ (channel divisor : Nat) (s : State),
    (channel * 2 < 6 → ∃ b1 b2 : Byte,
      b1.toNat = 0x80 ||| ((channel * 2) <<< 4) ||| ((divisor >>> 6) &&& 0xF) ∧
      b2.toNat = divisor &&& 0x3F ∧
      exec (.updateFrequency channel divisor) s = .next { s with out := s.out ++ [b1, b2], pos := s.pos + 1 }) ∧
    (6 ≤ channel * 2 →
      exec (.updateFrequency channel divisor) s = .next { s with pos := s.pos + 1 })

/-- Rule R101: a frequency request is accepted exactly when `channel × 2 < 6`, that is for channels 0, 1 and 2;
otherwise it emits zero bytes and does nothing but let the caller move on. -/
def Obligations.FrequencyAcceptsExactlyTheToneChannels : Prop :=
  ∀ (channel divisor : Nat) (s : State),
    (channel * 2 < 6 ↔ channel = 0 ∨ channel = 1 ∨ channel = 2) ∧
    (channel * 2 < 6 → ∃ bs : List Byte, bs ≠ [] ∧
      exec (.updateFrequency channel divisor) s = .next { s with out := s.out ++ bs, pos := s.pos + 1 }) ∧
    (¬ channel * 2 < 6 →
      exec (.updateFrequency channel divisor) s = .next { s with pos := s.pos + 1 })

/-- Rule R105: only the low 10 bits of the divisor count, whatever the channel. -/
def Obligations.FrequencyDivisorIsMaskedToTenBits : Prop :=
  ∀ (channel v : Nat) (s : State),
    (Instr.updateFrequency channel v).bytes = (Instr.updateFrequency channel (v % 1024)).bytes ∧
    exec (.updateFrequency channel v) s = exec (.updateFrequency channel (v % 1024)) s ∧
    exec (.updateFrequency channel v) s = exec (.updateFrequency channel (v &&& 0x3FF)) s

/-- Rule R106: divisor 0 is valid and is not clamped. -/
def Obligations.FrequencyDivisorZeroIsEncodedAsZero : Prop :=
  ∀ (channel : Nat) (s : State), channel ≤ 2 →
    ∃ b : Byte, b.toNat = 0x80 ||| ((channel * 2) <<< 4) ∧
      exec (.updateFrequency channel 0) s = .next { s with out := s.out ++ [b, 0x00#8], pos := s.pos + 1 }

/-- Rule R45, which the spec marks derived: the two bytes give the divisor back; every other field fits in the low 4
bits of one latch byte. -/
def Obligations.EmittedBytesGiveEachFieldBack : Prop :=
  (∀ (channel v : Nat) (s : State), channel ≤ 2 → ∃ b1 b2 : Byte,
    exec (.updateFrequency channel v) s = .next { s with out := s.out ++ [b1, b2], pos := s.pos + 1 } ∧
    v % 1024 = ((b1.toNat &&& 0x0F) <<< 6) ||| (b2.toNat &&& 0x3F)) ∧
  (∀ (feedback shift : Nat) (s : State), ∃ b : Byte,
    exec (.updateNoise feedback shift) s = .next { s with out := s.out ++ [b], pos := s.pos + 1 } ∧
    b.getLsbD 7 = true ∧ b.toNat &&& 0x0F = ((feedback &&& 1) <<< 2) ||| (shift &&& 3)) ∧
  (∀ (channel db : Nat) (s : State), channel ≤ 3 → ∃ b : Byte,
    exec (.updateAttenuation channel db) s = .next { s with out := s.out ++ [b], pos := s.pos + 1 } ∧
    b.getLsbD 7 = true ∧ b.toNat &&& 0x0F = db / 2 &&& 0xF)

/-! ### UPDATE_NOISE -/

/-- Rules R120, R121: exactly one byte, for every operand, and the operands are masked. -/
def Obligations.NoiseTransmitsOneMaskedLatchByte : Prop :=
  ∀ (feedback shift : Nat) (s : State),
    (∃ b : Byte,
      b.toNat = 0x80 ||| (0b110 <<< 4) ||| ((feedback &&& 1) <<< 2) ||| (shift &&& 3) ∧
      exec (.updateNoise feedback shift) s = .next { s with out := s.out ++ [b], pos := s.pos + 1 }) ∧
    (Instr.updateNoise feedback shift).bytes = (Instr.updateNoise (feedback % 2) (shift % 4)).bytes ∧
    exec (.updateNoise feedback shift) s = exec (.updateNoise (feedback % 2) (shift % 4)) s

/-- Rules R69, R122: the layout of the one noise-control byte, bit by bit; bit 3 is 0 for every operand. -/
def Obligations.NoiseByteLayoutKeepsBitThreeZero : Prop :=
  ∀ (feedback shift : Nat) (s : State), ∃ b : Byte,
    exec (.updateNoise feedback shift) s = .next { s with out := s.out ++ [b], pos := s.pos + 1 } ∧
    b.getLsbD 7 = true ∧ b.extractLsb' 4 3 = 0b110#3 ∧ b.getLsbD 3 = false ∧
    b.getLsbD 2 = feedback.testBit 0 ∧ b.getLsbD 1 = shift.testBit 1 ∧ b.getLsbD 0 = shift.testBit 0

/-! ### UPDATE_ATTENUATION -/

/-- Rules R140, R144, for every dB value: an accepted request transmits exactly one byte, and completes; a request
whose address is above 7 emits nothing, and completes. -/
def Obligations.AttenuationTransmitsOneLatchByte : Prop :=
  ∀ (channel db : Nat) (s : State),
    (channel * 2 + 1 ≤ 7 → ∃ b : Byte,
      b.toNat = 0x80 ||| ((channel * 2 + 1) <<< 4) ||| (db / 2 &&& 0xF) ∧
      exec (.updateAttenuation channel db) s = .next { s with out := s.out ++ [b], pos := s.pos + 1 }) ∧
    (7 < channel * 2 + 1 →
      exec (.updateAttenuation channel db) s = .next { s with pos := s.pos + 1 })

/-- Rule R141: an attenuation request is accepted exactly when `channel × 2 + 1 ≤ 7`, that is for channels 0 to 3;
otherwise it emits zero bytes and does nothing but let the caller move on. -/
def Obligations.AttenuationAcceptsExactlyFourChannels : Prop :=
  ∀ (channel db : Nat) (s : State),
    (channel * 2 + 1 ≤ 7 ↔ channel = 0 ∨ channel = 1 ∨ channel = 2 ∨ channel = 3) ∧
    (channel * 2 + 1 ≤ 7 → ∃ bs : List Byte, bs ≠ [] ∧
      exec (.updateAttenuation channel db) s = .next { s with out := s.out ++ bs, pos := s.pos + 1 }) ∧
    (¬ channel * 2 + 1 ≤ 7 →
      exec (.updateAttenuation channel db) s = .next { s with pos := s.pos + 1 })

/-- Rule R142, whose mod 32 sentence the spec marks derived: the field is half the dB value, rounded down, mod 16, so
a dB value counts mod 32. -/
def Obligations.AttenuationFieldIsHalfTheDecibelsMasked : Prop :=
  (∀ (channel db : Nat) (s : State), channel ≤ 3 → ∃ b : Byte,
    exec (.updateAttenuation channel db) s = .next { s with out := s.out ++ [b], pos := s.pos + 1 } ∧
    b.toNat % 16 = db / 2 % 16) ∧
  (∀ (channel db : Nat) (s : State),
    (Instr.updateAttenuation channel db).bytes = (Instr.updateAttenuation channel (db % 32)).bytes ∧
    exec (.updateAttenuation channel db) s = exec (.updateAttenuation channel (db % 32)) s)

/-- Rule R246: an odd dB value gives the same byte as the even one below it. -/
def Obligations.AttenuationOddDecibelsRoundDown : Prop :=
  ∀ (channel k : Nat) (s : State),
    (Instr.updateAttenuation channel (2 * k + 1)).bytes = (Instr.updateAttenuation channel (2 * k)).bytes ∧
    exec (.updateAttenuation channel (2 * k + 1)) s = exec (.updateAttenuation channel (2 * k)) s

/-- Rule R245: a dB value of 32 or above wraps; 32 gives field 0, full volume; of the values below 32 exactly 30 and
31 give field 15, silence. -/
def Obligations.AttenuationWrapsFromThirtyTwo : Prop :=
  (∀ (channel db : Nat) (s : State), 32 ≤ db →
    exec (.updateAttenuation channel db) s = exec (.updateAttenuation channel (db - 32)) s) ∧
  (∀ (channel : Nat) (s : State), channel ≤ 3 → ∃ b : Byte, b.toNat % 16 = 0 ∧
    exec (.updateAttenuation channel 32) s = .next { s with out := s.out ++ [b], pos := s.pos + 1 }) ∧
  (∀ (channel db : Nat) (s : State), channel ≤ 3 → db < 32 → ∃ b : Byte,
    (b.toNat % 16 = 15 ↔ 30 ≤ db ∧ db ≤ 31) ∧
    exec (.updateAttenuation channel db) s = .next { s with out := s.out ++ [b], pos := s.pos + 1 })

/-! ### Addresses, byte values, dropped requests -/

/-- The spec's decision D5 (rule R67; log entry 9): the address in a latch byte is the computed address in full
precision, for every channel: a large channel never wraps to a valid address. -/
def Obligations.LatchAddressIsTheFullComputedAddress : Prop :=
  (∀ (channel divisor : Nat) (s t : State) (b : Byte),
    exec (.updateFrequency channel divisor) s = .next t → b ∈ t.out.drop s.out.length → b.getLsbD 7 = true →
    (b.extractLsb' 4 3).toNat = channel * 2) ∧
  (∀ (feedback shift : Nat) (s t : State) (b : Byte),
    exec (.updateNoise feedback shift) s = .next t → b ∈ t.out.drop s.out.length →
    b.getLsbD 7 = true ∧ (b.extractLsb' 4 3).toNat = 6) ∧
  (∀ (channel db : Nat) (s t : State) (b : Byte),
    exec (.updateAttenuation channel db) s = .next t → b ∈ t.out.drop s.out.length →
    b.getLsbD 7 = true ∧ (b.extractLsb' 4 3).toNat = channel * 2 + 1)

/-- Rule R21: the register-layout table, and that the request a register is written by names its address in the latch
byte it sends first. -/
def Obligations.RegisterLayoutIsTheAddressSent : Prop :=
  [PsgReg.tone0Freq, .tone0Atten, .tone1Freq, .tone1Atten, .tone2Freq, .tone2Atten, .noiseCtrl, .noiseAtten].map
      (fun r => (r.addr, r.owner)) =
    [(0b000#3, 0), (0b001#3, 0), (0b010#3, 1), (0b011#3, 1), (0b100#3, 2), (0b101#3, 2), (0b110#3, 3), (0b111#3, 3)] ∧
  (∀ (r : PsgReg) (x y : Nat) (s : State), ∃ (b : Byte) (bs : List Byte),
    exec (r.writtenBy x y) s = .next { s with out := s.out ++ b :: bs, pos := s.pos + 1 } ∧
    b.getLsbD 7 = true ∧ b.extractLsb' 4 3 = r.addr)

/-- Rule R65, which the spec marks derived: the closed set of byte values. A byte can be emitted exactly when it is
one of these values; the bytes with bit 7 set that a register's requests emit are exactly that register's 16 values (8
for noise control). -/
def Obligations.EmittedByteValuesAreTheClosedSet : Prop :=
  (∀ b : Byte,
    (∃ (i : Instr) (s t : State), exec i s = .next t ∧ b ∈ t.out.drop s.out.length) ↔
    b.toNat ≤ 0x3F ∨ (0x80 ≤ b.toNat ∧ b.toNat ≤ 0xE7) ∨ 0xF0 ≤ b.toNat) ∧
  (∀ (r : PsgReg) (b : Byte),
    (∃ (x y : Nat) (s t : State), exec (r.writtenBy x y) s = .next t ∧ b ∈ t.out.drop s.out.length ∧
      b.getLsbD 7 = true) ↔
    0x80 + 16 * r.addr.toNat ≤ b.toNat ∧
      b.toNat ≤ 0x80 + 16 * r.addr.toNat + (if r = .noiseCtrl then 7 else 15)) ∧
  (∀ b : Byte,
    (∃ (channel divisor : Nat) (s t : State), exec (.updateFrequency channel divisor) s = .next t ∧
      b ∈ t.out.drop s.out.length ∧ b.getLsbD 7 = false) ↔ b.toNat ≤ 0x3F)

/-- Rule R68: exactly two kinds of request emit nothing, and such a request changes nothing but the position. -/
def Obligations.ExactlyTwoKindsOfRequestAreDropped : Prop :=
  ∀ (i : Instr) (s : State),
    exec i s = .next { s with pos := s.pos + 1 } ↔
      (∃ channel divisor, i = .updateFrequency channel divisor ∧ 3 ≤ channel) ∨
      (∃ channel db, i = .updateAttenuation channel db ∧ 4 ≤ channel)

/-- Rules R66, R202 with R105, R121, R142: operands out of range are masked, never rejected. The masked instruction does
exactly what the instruction does, masking again changes nothing, and an instruction within the document's contract is
masked already. Two predicates here are the MODEL'S. The masked instruction takes the even dB value below 32 as the one
that stands for a field, a DESIGN CHOICE (log entry 18). The contract is the model's reading, DEDUCED, of the operand
paragraphs of rules R100, R120, R140 (log entry 16). -/
def Obligations.MaskingNeverChangesWhatARequestDoes : Prop :=
  ∀ (i : Instr),
    (∀ s : State, exec i.masked s = exec i s) ∧ i.masked.masked = i.masked ∧ (i.inContract = true → i.masked = i)

/-- Two requests within the document's contract that emit the same bytes are the same request: no two settings of the
chip's registers are confused (rules R66, R100, R120, R140). The contract as a predicate is the model's (log entry
16). -/
def Obligations.RequestsInContractAreToldApartByTheirBytes : Prop :=
  ∀ i j : Instr, i.inContract = true → j.inContract = true → i.bytes = j.bytes → i = j

/-! ### Whole runs and the output stream -/

/-- The spec's decision D7 (rule R29; log entry 11): one step serves one request whole, and from any state serving the
rest of the list appends the bytes of its requests in order; if one of them is refused the whole run is refused. -/
def Obligations.RunAppendsTheBytesOfEveryRequest : Prop :=
  ∀ s : State,
    (∀ (req : Request) (i : Instr), s.program[s.pos]? = some req → decode req = .ok i →
      step s = .next { s with out := s.out ++ i.bytes, pos := s.pos + 1 }) ∧
    (∀ is : List Instr, decodeProgram (s.program.drop s.pos) = .ok is →
      runFor is.length s = .next { s with out := s.out ++ is.flatMap Instr.bytes, pos := s.pos + is.length }) ∧
    ((∃ req ∈ s.program.drop s.pos, req.op = 0b11#2) →
      runFor (s.program.drop s.pos).length s = .refused .reservedOp)

/-- Rules R29, R214: a run of the rest of the list completes exactly when no request in it has the reserved selector.
-/
def Obligations.RunCompletesExactlyWhenNothingIsReserved : Prop :=
  ∀ s : State, s.safe ↔ ∃ t, runFor (s.program.length - s.pos) s = .next t

/-- Rules R24, R29, R31 (the spec's decisions D6, D7, D11, D12): every step keeps the invariant that `out` is the
bytes of the requests served so far, in order, and nothing else. -/
def Obligations.StepKeepsOutputEqualToServedRequests : Prop :=
  ∀ s t : State, s.consistent → step s = .next t → t.consistent

/-- The reset state, and the start of a run over any list (log entry 2), meet that invariant. -/
def Obligations.RunsStartConsistent : Prop :=
  State.reset.consistent ∧ ∀ program : List Request, (State.load program).consistent

/-- Rule R64, which the spec marks derived: in the block's own output a data byte directly follows every frequency
latch byte and no other, and the cut of `out` has one group for each request that emits bytes. -/
def Obligations.OutputCutsIntoOneGroupPerRequest : Prop :=
  ∀ is : List Instr,
    (∀ (n : Nat) (b : Byte), (is.flatMap Instr.bytes)[n]? = some b →
      ((b.getLsbD 7 = true ∧ (b.extractLsb' 4 3 = 0#3 ∨ b.extractLsb' 4 3 = 2#3 ∨ b.extractLsb' 4 3 = 4#3)) ↔
        ∃ d : Byte, (is.flatMap Instr.bytes)[n + 1]? = some d ∧ d.getLsbD 7 = false) ∧
      (b.getLsbD 7 = false → n ≠ 0)) ∧
    ∃ groups : List ByteGroup, cutStream (is.flatMap Instr.bytes) = some groups ∧
      groups.map ByteGroup.toBytes = (is.map Instr.bytes).filter (fun bs => !bs.isEmpty)

/-- Rules R45, R64; the reader is the model's (log entry 18): a reader of the output gets back every accepted request
in order, its operands within the masks. No bit of a field is dropped on the way. -/
def Obligations.ReadingTheOutputGivesTheAcceptedRequests : Prop :=
  ∀ is : List Instr,
    readStream (is.flatMap Instr.bytes) = some ((is.filter Instr.accepted).map Instr.masked)

/-- Rules R64, R65; the reader is the model's (log entry 18): the reader reads nothing but what the block can send:
where it gives requests, serving them sends exactly that stream. -/
def Obligations.ReadRequestsSendTheStreamReadFrom : Prop :=
  ∀ (bs : List Byte) (is : List Instr), readStream bs = some is → is.flatMap Instr.bytes = bs

/-- Rules R64, R65, R243: every step keeps the output stream whole: no two-byte sequence is torn and every byte value
is one the block emits. -/
def Obligations.StepKeepsTheOutputStreamWhole : Prop :=
  ∀ s t : State, s.streamWhole → step s = .next t → t.streamWhole

/-- The reset state meets that invariant. -/
def Obligations.ResetOutputStreamIsWhole : Prop :=
  State.reset.streamWhole

/-! ### Notation -/

/-- Rule R72 (the spec's decision D17; log entry 17): the written line of an instruction reads back as that
instruction, for all operands. -/
def Obligations.WrittenCallReadsBackAsItself : Prop :=
  ∀ i : Instr, readLine (writeLine i) = some i

/-! ### Informative readings -/

/-- Rule R143: field n means 2n dB for n from 0 to 14 and field 15 means OFF; so an even dB value up to 28 is the
attenuation the block encodes, and 30 and 31 are OFF. -/
def Obligations.AttenuationFieldMeansTheDecibelsAskedFor : Prop :=
  (∀ field : BitVec 4, (field.toNat ≤ 14 → decibelsOf field = some (2 * field.toNat)) ∧
    (field.toNat = 15 → decibelsOf field = none)) ∧
  (∀ db : Nat, (db ≤ 28 → db % 2 = 0 → decibelsOf (attenField db) = some db) ∧
    (30 ≤ db → db ≤ 31 → decibelsOf (attenField db) = none))

/-- Rules R107, R123, informative, no rule of the block reads them: the feedback and shift codes (the codes' order is
the spec's own reading, log entry 14) and the output frequency, which is undefined at divisor 0.
At divisors of 1024 and above, where the spec gives no frequency, the formula is the MODEL'S choice (log entry 22). -/
def Obligations.CodesAndFrequencyReadAsTheSpecLists : Prop :=
  noiseKindOf 0#1 = .periodic ∧ noiseKindOf 1#1 = .white ∧
  [0#2, 1#2, 2#2, 3#2].map shiftSourceOf = [.clockOver512, .clockOver1024, .clockOver2048, .tone2Output] ∧
  outputFrequency Config.clockHz 0 = none ∧
  (∀ divisor : Nat, divisor ≠ 0 →
    outputFrequency Config.clockHz divisor = some ((Config.clockHz : Rat) / (32 * (divisor : Rat))))
end

