-- ==== Sys2Proof/Laws/Assembler.lean ====
section
/-! SUPPORT. Literals of the call notation: a natural written in decimal reads back as itself. -/

namespace Sys2Proof.Machine

theorem digitValue_digitChar : ∀ d < 10, digitValue (Nat.digitChar d) = some d := by decide

/-- Reading digits in two parts. -/
theorem digitsValue_append (base acc : Nat) (xs ys : List Char) :
    digitsValue base acc (xs ++ ys) = (digitsValue base acc xs).bind (fun a => digitsValue base a ys) := by
  induction xs generalizing acc with
  | nil => rfl
  | cons c cs ih =>
    simp only [List.cons_append, digitsValue]
    cases digitValue c with
    | none => rfl
    | some d =>
      simp only
      split
      · exact ih _
      · rfl

theorem digitsValue_toDigits (n : Nat) : digitsValue 10 0 (Nat.toDigits 10 n) = some n := by
  induction n using Nat.strongRecOn with
  | _ n ih =>
    rw [Nat.toDigits_eq_if (by omega)]
    split
    · rename_i h
      simp [digitsValue, digitValue_digitChar n h, h]
    · have hd : n % 10 < 10 := by omega
      rw [digitsValue_append, ih (n / 10) (by omega)]
      simp [digitsValue, digitValue_digitChar _ hd, hd]
      omega

/-- A decimal literal reads back: it never begins `0x`. -/
theorem readLiteral_toDigits (n : Nat) : readLiteral (Nat.toDigits 10 n) = some n := by
  have value := digitsValue_toDigits n
  have digit : ∀ c ∈ Nat.toDigits 10 n, c.isDigit = true :=
    fun c hc => Nat.isDigit_of_mem_toDigits (by omega) (by omega) hc
  cases hl : Nat.toDigits 10 n with
  | nil =>
    rw [Nat.toDigits_eq_if (by omega)] at hl
    split at hl <;> simp at hl
  | cons c cs =>
    rw [hl] at value digit
    unfold readLiteral
    split
    · cases ‹_›
    · rename_i heq
      injection heq with h1 h2
      subst h1 h2
      exact absurd (digit 'x' (by simp)) (by decide)
    · rename_i heq
      injection heq with h1 h2
      subst h1 h2
      exact value

end Sys2Proof.Machine
end

