-- ==== Sys2Proof/Laws/Decode.lean ====
section
/-! SUPPORT. What the decoder answers, said once. -/

namespace Sys2Proof

/-- The decoder's answer, case by case on the selector. -/
theorem decode_cases (req : Request) :
    (req.op = 0b00#2 ∧ decode req = .ok (.updateFrequency req.arg0 req.arg1)) ∨
    (req.op = 0b01#2 ∧ decode req = .ok (.updateNoise req.arg0 req.arg1)) ∨
    (req.op = 0b10#2 ∧ decode req = .ok (.updateAttenuation req.arg0 req.arg1)) ∨
    (req.op = 0b11#2 ∧ decode req = .error .reservedOp) := by
  obtain ⟨op, a, b⟩ := req
  have : op = 0#2 ∨ op = 1#2 ∨ op = 2#2 ∨ op = 3#2 := by revert op; decide
  rcases this with rfl | rfl | rfl | rfl <;> simp [decode, selFrequency, selNoise, selAttenuation]

/-- Decoding fails on the reserved selector, for that reason and no other. -/
theorem decode_error_iff (req : Request) (e : DecodeError) : decode req = .error e ↔ req.op = 0b11#2 := by
  cases e
  rcases decode_cases req with ⟨h, d⟩ | ⟨h, d⟩ | ⟨h, d⟩ | ⟨h, d⟩ <;> simp [h, d]

/-- A well-formed request decodes. -/
theorem decode_ok_of_op (req : Request) (h : req.op ≠ 0b11#2) : ∃ i, decode req = .ok i := by
  rcases decode_cases req with ⟨-, d⟩ | ⟨-, d⟩ | ⟨-, d⟩ | ⟨h', -⟩
  exacts [⟨_, d⟩, ⟨_, d⟩, ⟨_, d⟩, absurd h' h]

@[simp] theorem decodeProgram_nil : decodeProgram [] = .ok [] := rfl

theorem decodeProgram_cons_ok (req : Request) (rest : List Request) (i : Instr) (h : decode req = .ok i) :
    decodeProgram (req :: rest) = (decodeProgram rest).map (i :: ·) := by
  cases hr : decodeProgram rest <;> simp [decodeProgram, h, hr, Except.map]

theorem decodeProgram_cons_error (req : Request) (rest : List Request) (e : DecodeError) (h : decode req = .error e) :
    decodeProgram (req :: rest) = .error e := by
  simp [decodeProgram, h]

/-- A list decodes when each of its requests does. -/
theorem decodeProgram_ok_iff (reqs : List Request) :
    (∃ is, decodeProgram reqs = .ok is) ↔ ∀ req ∈ reqs, req.wellFormed = true := by
  induction reqs with
  | nil => simp
  | cons req rest ih =>
    by_cases h : req.op = 0b11#2
    · simp [decodeProgram_cons_error req rest .reservedOp ((decode_error_iff req _).2 h), Request.wellFormed, h]
    · obtain ⟨i, hi⟩ := decode_ok_of_op req h
      rw [decodeProgram_cons_ok req rest i hi]
      cases hr : decodeProgram rest with
      | error e => simp_all [Request.wellFormed, Except.map]
      | ok is => simp_all [Request.wellFormed, Except.map]

/-- One instruction per request. -/
theorem decodeProgram_length (reqs : List Request) (is : List Instr) (h : decodeProgram reqs = .ok is) :
    is.length = reqs.length := by
  induction reqs generalizing is with
  | nil => simp_all
  | cons req rest ih =>
    simp only [decodeProgram] at h
    split at h
    · cases h
    · split at h
      · cases h
      · cases h
        simp [ih _ ‹_›]

/-- Decoding a list that ends in one more request. -/
theorem decodeProgram_append_one (reqs : List Request) (is : List Instr) (req : Request) (i : Instr)
    (hs : decodeProgram reqs = .ok is) (h : decode req = .ok i) :
    decodeProgram (reqs ++ [req]) = .ok (is ++ [i]) := by
  induction reqs generalizing is with
  | nil => simp_all [decodeProgram]
  | cons r rest ih =>
    simp only [decodeProgram] at hs
    split at hs
    · cases hs
    · split at hs
      · cases hs
      · cases hs
        simp_all [decodeProgram]

end Sys2Proof
end

