-- ==== Sys2Proof/Laws/Operands.lean ====
section
/-! SUPPORT. The fields and checks of Operands.lean as natural numbers. -/

namespace Sys2Proof.Machine

theorem freqAddrExists_iff (channel : Nat) : freqAddrExists (freqAddr channel) = true ↔ channel ≤ 2 := by
  rw [freqAddrExists, decide_eq_true_eq, freqAddr, Config.addrNoiseCtrl]
  omega

theorem attenAddrExists_iff (channel : Nat) : attenAddrExists (attenAddr channel) = true ↔ channel ≤ 3 := by
  rw [attenAddrExists, decide_eq_true_eq, attenAddr, Config.addrMax]
  omega

/-- Divisor bits 9 to 6 (rule R66). -/
theorem divisorHigh_toNat (divisor : Nat) : (divisorHigh divisor).toNat = divisor / 64 % 16 := by
  simp only [divisorHigh, slice, maskDivisor, Config.divWidth, BitVec.toNat_ofNat]
  omega

/-- Divisor bits 5 to 0 (rule R66). -/
theorem divisorLow_toNat (divisor : Nat) : (divisorLow divisor).toNat = divisor % 64 := by
  simp only [divisorLow, slice, maskDivisor, Config.divWidth, BitVec.toNat_ofNat]
  omega

theorem feedbackBit_toNat (feedback : Nat) : (feedbackBit feedback).toNat = feedback % 2 := by
  simp [feedbackBit, Nat.and_one_is_mod]

theorem shiftBits_toNat (shift : Nat) : (shiftBits shift).toNat = shift % 4 := by
  have h : shift &&& 3 = shift % 4 := Nat.and_two_pow_sub_one_eq_mod shift 2
  simp [shiftBits, h]

/-- The noise-control field: shift in bits 1–0, feedback in bit 2, bit 3 zero (rules R62, R69). -/
theorem noiseField_toNat (feedback shift : Nat) :
    (noiseField feedback shift).toNat = feedback % 2 * 4 + shift % 4 := by
  have fields : ∀ (f : BitVec 1) (sh : BitVec 2), (0#1 ++ f ++ sh : BitVec 4).toNat = f.toNat * 4 + sh.toNat := by
    decide
  rw [noiseField, fields, feedbackBit_toNat, shiftBits_toNat]

/-- Half of the dB value, rounded down, in 4 bits (rule R142). -/
theorem attenField_toNat (db : Nat) : (attenField db).toNat = db / 2 % 16 := by
  have h : db / 2 &&& 15 = db / 2 % 16 := Nat.and_two_pow_sub_one_eq_mod (db / 2) 4
  simp [attenField, Config.dbStep, h]

end Sys2Proof.Machine
end

