-- ==== Sys2Proof/Laws/State.lean ====
section
/-! SUPPORT. One lemma per field per update of State, so that no proof unfolds a record update. -/

namespace Sys2Proof.Machine

@[simp] theorem State.reset_program : State.reset.program = [] := rfl
@[simp] theorem State.reset_pos : State.reset.pos = 0 := rfl
@[simp] theorem State.reset_out : State.reset.out = [] := rfl

@[simp] theorem State.transmit_program (b : Byte) (s : State) : (s.transmit b).program = s.program := rfl
@[simp] theorem State.transmit_pos (b : Byte) (s : State) : (s.transmit b).pos = s.pos := rfl
@[simp] theorem State.transmit_out (b : Byte) (s : State) : (s.transmit b).out = s.out ++ [b] := rfl

@[simp] theorem State.advance_program (s : State) : s.advance.program = s.program := rfl
@[simp] theorem State.advance_pos (s : State) : s.advance.pos = s.pos + 1 := rfl
@[simp] theorem State.advance_out (s : State) : s.advance.out = s.out := rfl

@[simp] theorem State.idle_eq (s : State) : s.idle = s := rfl

@[simp] theorem State.load_program (p : List Request) : (State.load p).program = p := rfl
@[simp] theorem State.load_pos (p : List Request) : (State.load p).pos = 0 := rfl
@[simp] theorem State.load_out (p : List Request) : (State.load p).out = [] := rfl

@[simp] theorem State.withFetchWord_pos (s : State) (nbits w : Nat) : (s.withFetchWord nbits w).pos = s.pos := rfl
@[simp] theorem State.withFetchWord_out (s : State) (nbits w : Nat) : (s.withFetchWord nbits w).out = s.out := rfl
@[simp] theorem State.withFetchWord_program (s : State) (nbits w : Nat) :
    (s.withFetchWord nbits w).program = placeRequest s.program s.pos (Request.ofTableWord nbits w) := rfl

end Sys2Proof.Machine
end

