-- ==== Sys2Proof/Laws/Ops.lean ====
section
/-! SUPPORT. One lemma per shared operation, saying once everything it does. -/

namespace Sys2Proof.Machine

/-- Transmitting a list of bytes appends exactly that list and changes nothing else. -/
theorem State.transmitAll_eq (bs : List Byte) (s : State) : s.transmitAll bs = { s with out := s.out ++ bs } := by
  induction bs generalizing s with
  | nil => simp [State.transmitAll]
  | cons b bs ih =>
    have := ih (s.transmit b)
    simpa [State.transmitAll, State.transmit] using this

/-- Serving a request appends its bytes and moves on by one. -/
theorem State.serve_eq (bs : List Byte) (s : State) :
    s.serve bs = { s with out := s.out ++ bs, pos := s.pos + 1 } := by
  simp [State.serve, State.advance, State.transmitAll_eq]

@[simp] theorem State.serve_program (bs : List Byte) (s : State) : (s.serve bs).program = s.program := by
  simp [State.serve_eq]

@[simp] theorem State.serve_pos (bs : List Byte) (s : State) : (s.serve bs).pos = s.pos + 1 := by
  simp [State.serve_eq]

@[simp] theorem State.serve_out (bs : List Byte) (s : State) : (s.serve bs).out = s.out ++ bs := by
  simp [State.serve_eq]

/-- The latch format as a number: three fields that do not overlap (rule R62). -/
theorem latch_toNat_eq_add (reg : BitVec 3) (d4 : BitVec 4) :
    (latch reg d4).toNat = 128 + reg.toNat * 16 + d4.toNat := by
  revert reg d4
  decide

/-- The data format as a number (rule R63). -/
theorem data_toNat_eq (d6 : BitVec 6) : (data d6).toNat = d6.toNat := by
  revert d6
  decide

/-- Placing a request puts it where the next one is fetched. -/
theorem placeRequest_getElem? (program : List Request) (pos : Nat) (req : Request) :
    (placeRequest program pos req)[pos]? = some req := by
  have hlen : (program.take pos ++ List.replicate (pos - program.length) req).length = pos := by
    simp
    omega
  rw [placeRequest, List.getElem?_append_right (by omega), hlen]
  simp

/-- Placing a request leaves every other entry of a list that reaches the position alone. -/
theorem placeRequest_eq_set (program : List Request) (pos : Nat) (req : Request) (h : pos < program.length) :
    placeRequest program pos req = program.set pos req := by
  have h0 : pos - program.length = 0 := by omega
  simp [placeRequest, h0, List.set_eq_take_append_cons_drop, h]

end Sys2Proof.Machine
end

