-- ==== Sys2Proof/Laws/Exec.lean ====
section
/-! SUPPORT. What an instruction and a step can do, said once. -/

namespace Sys2Proof.Machine

/-- Every instruction answers a next state: its bytes are served. -/
theorem exec_eq_serve (i : Instr) (s : State) : exec i s = .next (s.serve i.bytes) := by
  cases i <;> rfl

/-- What an instruction's next state is, when it answers one. -/
theorem exec_next_inv (i : Instr) (s t : State) (h : exec i s = .next t) : t = s.serve i.bytes := by
  rw [exec_eq_serve] at h
  injection h with h
  exact h.symm

theorem bytesFrequency_of_le (channel divisor : Nat) (h : channel ≤ 2) :
    bytesFrequency channel divisor =
      [latch (BitVec.ofNat 3 (channel * 2)) (divisorHigh divisor), data (divisorLow divisor)] := by
  rw [bytesFrequency, if_pos ((freqAddrExists_iff channel).2 h), freqAddr]

theorem bytesFrequency_of_gt (channel divisor : Nat) (h : 3 ≤ channel) : bytesFrequency channel divisor = [] := by
  rw [bytesFrequency, if_neg (by rw [freqAddrExists_iff]; omega), silentDrop]

theorem bytesAttenuation_of_le (channel db : Nat) (h : channel ≤ 3) :
    bytesAttenuation channel db = [latch (BitVec.ofNat 3 (channel * 2 + 1)) (attenField db)] := by
  rw [bytesAttenuation, if_pos ((attenAddrExists_iff channel).2 h), attenAddr]

theorem bytesAttenuation_of_gt (channel db : Nat) (h : 4 ≤ channel) : bytesAttenuation channel db = [] := by
  rw [bytesAttenuation, if_neg (by rw [attenAddrExists_iff]; omega), silentDrop]

theorem bytesNoise_eq (feedback shift : Nat) : bytesNoise feedback shift = [latch 6#3 (noiseField feedback shift)] :=
  rfl

/-- A request emits nothing exactly when it targets a register that does not exist (rules R201, R203). -/
theorem accepted_eq_not_targetsMissingRegister (i : Instr) : i.accepted = !i.targetsMissingRegister := by
  cases i with
  | updateFrequency c d =>
    by_cases h : freqAddrExists (freqAddr c) = true <;>
      simp [Instr.accepted, Instr.bytes, Instr.targetsMissingRegister, bytesFrequency, silentDrop, h]
  | updateNoise f sh => rfl
  | updateAttenuation c db =>
    by_cases h : attenAddrExists (attenAddr c) = true <;>
      simp [Instr.accepted, Instr.bytes, Instr.targetsMissingRegister, bytesAttenuation, silentDrop, h]

/-- What a step answers, case by case on the request it fetches. -/
theorem step_cases (s : State) :
    (s.nextRequest = none ∧ step s = .next s) ∨
    (∃ req i, s.nextRequest = some req ∧ decode req = .ok i ∧ step s = .next (s.serve i.bytes)) ∨
    (∃ req, s.nextRequest = some req ∧ req.op = 0b11#2 ∧ step s = .refused .reservedOp) := by
  cases hn : s.nextRequest with
  | none => exact .inl ⟨rfl, by simp [step, hn]⟩
  | some req =>
    cases hd : decode req with
    | ok i => exact .inr (.inl ⟨req, i, rfl, hd, by simp [step, hn, hd, exec_eq_serve]⟩)
    | error e =>
      cases e
      exact .inr (.inr ⟨req, rfl, (decode_error_iff req _).1 hd, by simp [step, hn, hd, refusalOf]⟩)

/-- A step that answers a next state idles at the end of the list or serves the request it fetches. -/
theorem step_next_inv (s t : State) (h : step s = .next t) :
    (s.nextRequest = none ∧ t = s) ∨
    (∃ req i, s.nextRequest = some req ∧ decode req = .ok i ∧ t = s.serve i.bytes) := by
  rcases step_cases s with ⟨hn, hs⟩ | ⟨req, i, hn, hd, hs⟩ | ⟨req, -, -, hs⟩ <;> rw [hs] at h
  · injection h with h
    exact .inl ⟨hn, h.symm⟩
  · injection h with h
    exact .inr ⟨req, i, hn, hd, h.symm⟩
  · cases h

theorem step_of_decode_ok (s : State) (req : Request) (i : Instr) (hn : s.program[s.pos]? = some req)
    (hd : decode req = .ok i) : step s = .next (s.serve i.bytes) := by
  have hn' : s.nextRequest = some req := hn
  simp [step, hn', hd, exec_eq_serve]

theorem step_of_decode_error (s : State) (req : Request) (hn : s.program[s.pos]? = some req)
    (hd : req.op = 0b11#2) : step s = .refused .reservedOp := by
  have hn' : s.nextRequest = some req := hn
  have hd' : decode req = .error .reservedOp := (decode_error_iff req _).2 hd
  simp [step, hn', hd', refusalOf]

@[simp] theorem runFor_zero (s : State) : runFor 0 s = .next s := rfl

theorem runFor_succ_next (k : Nat) (s t : State) (h : step s = .next t) : runFor (k + 1) s = runFor k t := by
  simp [runFor, h]

theorem runFor_succ_refused (k : Nat) (s : State) (r : Refusal) (h : step s = .refused r) :
    runFor (k + 1) s = .refused r := by
  simp [runFor, h]

theorem host_run_next (M : Host.Core) (k : Nat) (s t : M.State) (h : M.step s = .next t) :
    M.run (k + 1) s = M.run k t := by
  simp [Host.Core.run, h]

theorem host_run_refused (M : Host.Core) (k : Nat) (s : M.State) (r : M.Refusal) (h : M.step s = .refused r) :
    M.run (k + 1) s = .refused r := by
  simp [Host.Core.run, h]

/-- `runFor` is the run of the host's interface on this machine. -/
theorem run_core_eq_runFor : ∀ (k : Nat) (s : State), Host.Core.run core k s = runFor k s
  | 0, _ => rfl
  | k + 1, s =>
    match h : step s with
    | .next t => (host_run_next core k s t h).trans
        ((run_core_eq_runFor k t).trans (runFor_succ_next k s t h).symm)
    | .fault f => nomatch f
    | .refused r => (host_run_refused core k s r h).trans (runFor_succ_refused k s r h).symm

end Sys2Proof.Machine
end

