-- ==== Sys2Proof/Laws/PerInstr.lean ====
section
/-! SUPPORT. Statements made per instruction: the family RoundTrip, that the request an instruction encodes to is
well-formed and decodes to it, with every operand it has (rules R6, R60). -/

namespace Sys2Proof.Laws.RoundTrip

/-- The encoding of one instruction is well-formed and keeps every operand. -/
def Statement (i : Instr) : Prop :=
  i.wellFormed = true ∧ (encode i).wellFormed = true ∧ decode (encode i) = .ok i

theorem updateFrequency (channel divisor : Nat) : Statement (.updateFrequency channel divisor) :=
  ⟨rfl, rfl, rfl⟩

theorem updateNoise (feedback shift : Nat) : Statement (.updateNoise feedback shift) :=
  ⟨rfl, rfl, rfl⟩

theorem updateAttenuation (channel db : Nat) : Statement (.updateAttenuation channel db) :=
  ⟨rfl, rfl, rfl⟩

end Sys2Proof.Laws.RoundTrip
end

