-- ==== Sys2Proof/Laws/Stream.lean ====
section
/-! SUPPORT. The reader of the output stream against the bytes of one instruction. -/

namespace Sys2Proof.Machine

@[simp] theorem isLatchByte_latch (reg : BitVec 3) (d4 : BitVec 4) : isLatchByte (latch reg d4) = true := by
  revert reg d4
  decide

@[simp] theorem addrField_latch (reg : BitVec 3) (d4 : BitVec 4) : addrField (latch reg d4) = reg := by
  revert reg d4
  decide

@[simp] theorem latchField_latch (reg : BitVec 3) (d4 : BitVec 4) : latchField (latch reg d4) = d4 := by
  revert reg d4
  decide

@[simp] theorem isLatchByte_data (d6 : BitVec 6) : isLatchByte (data d6) = false := by
  revert d6
  decide

@[simp] theorem dataField_data (d6 : BitVec 6) : dataField (data d6) = d6 := by
  revert d6
  decide

/-- A byte is a latch byte of its own fields or has bit 7 clear (rule R64). -/
theorem latch_of_isLatchByte (b : Byte) (h : isLatchByte b = true) : latch (addrField b) (latchField b) = b := by
  revert b
  decide

@[simp] theorem cutStream_nil : cutStream [] = some [] := rfl

/-- A frequency latch byte and its data byte are one group. -/
theorem cutStream_pair (b d : Byte) (rest : List Byte) (hb : startsPair b = true) (hd : isLatchByte d = false) :
    cutStream (b :: d :: rest) = (cutStream rest).map (ByteGroup.pair b d :: ·) := by
  simp [cutStream, hb, hd]

/-- Any other latch byte is a group of its own. -/
theorem cutStream_single (b : Byte) (rest : List Byte) (hb : isLatchByte b = true) (hp : startsPair b = false) :
    cutStream (b :: rest) = (cutStream rest).map (ByteGroup.single b :: ·) := by
  cases rest with
  | nil => simp [cutStream, hb, hp]
  | cons d rest => simp [cutStream, hb, hp]

/-- The bytes of an instruction, case by case: none, a frequency pair, or one latch byte for another register. -/
theorem bytes_cases (i : Instr) :
    (i.bytes = [] ∧ i.accepted = false) ∨
    (∃ channel divisor, channel ≤ 2 ∧ i = .updateFrequency channel divisor ∧ i.accepted = true ∧
      i.bytes = [latch (BitVec.ofNat 3 (channel * 2)) (divisorHigh divisor), data (divisorLow divisor)]) ∨
    (∃ feedback shift, i = .updateNoise feedback shift ∧ i.accepted = true ∧
      i.bytes = [latch 6#3 (noiseField feedback shift)]) ∨
    (∃ channel db, channel ≤ 3 ∧ i = .updateAttenuation channel db ∧ i.accepted = true ∧
      i.bytes = [latch (BitVec.ofNat 3 (channel * 2 + 1)) (attenField db)]) := by
  cases i with
  | updateFrequency c d =>
    rcases Nat.lt_or_ge 2 c with h | h
    · exact .inl (by simp [Instr.accepted, Instr.bytes, bytesFrequency_of_gt c d h])
    · exact .inr (.inl ⟨c, d, h, rfl, by simp [Instr.accepted, Instr.bytes, bytesFrequency_of_le c d h]⟩)
  | updateNoise f sh => exact .inr (.inr (.inl ⟨f, sh, rfl, rfl, rfl⟩))
  | updateAttenuation c d =>
    rcases Nat.lt_or_ge 3 c with h | h
    · exact .inl (by simp [Instr.accepted, Instr.bytes, bytesAttenuation_of_gt c d h])
    · exact .inr (.inr (.inr ⟨c, d, h, rfl, by simp [Instr.accepted, Instr.bytes, bytesAttenuation_of_le c d h]⟩))

/-- A latch byte starts a pair exactly at the addresses of the frequency registers. -/
theorem startsPair_latch (reg : BitVec 3) (d4 : BitVec 4) :
    startsPair (latch reg d4) = (reg == 0#3 || reg == 2#3 || reg == 4#3) := by
  simp [startsPair]

/-- The groups the bytes of one instruction are cut into: one, or none where it is dropped. -/
def groupsOf (i : Instr) : List ByteGroup :=
  match i.bytes with
  | [b] => [.single b]
  | [b, d] => [.pair b d]
  | _ => []

/-- Cutting a stream that begins with the bytes of one instruction cuts those bytes off as one group (rule R64). -/
theorem cutStream_bytes_append (i : Instr) (rest : List Byte) :
    cutStream (i.bytes ++ rest) = (cutStream rest).map (groupsOf i ++ ·) := by
  rcases bytes_cases i with ⟨h, -⟩ | ⟨c, d, hc, -, -, h⟩ | ⟨f, sh, -, -, h⟩ | ⟨c, d, hc, -, -, h⟩ <;>
    simp only [groupsOf, h, List.cons_append, List.nil_append]
  · simp
  · refine cutStream_pair _ _ _ ?_ (isLatchByte_data _)
    rw [startsPair_latch]
    interval_cases c <;> decide
  · exact cutStream_single _ _ (isLatchByte_latch _ _) (by rw [startsPair_latch]; decide)
  · refine cutStream_single _ _ (isLatchByte_latch _ _) ?_
    rw [startsPair_latch]
    interval_cases c <;> decide

end Sys2Proof.Machine
end

