-- ==== Sys2Proof/Laws/WellFormed.lean ====
section
/-! SUPPORT. The checks of WellFormed.lean as propositions over numbers. -/

namespace Sys2Proof

theorem Request.wellFormed_iff (req : Request) : req.wellFormed = true ↔ req.op ≠ 0b11#2 := by
  simp [Request.wellFormed]

theorem Instr.inContract_updateFrequency_iff (channel divisor : Nat) :
    (Instr.updateFrequency channel divisor).inContract = true ↔ channel < 3 ∧ divisor < 1024 := by
  rw [Instr.inContract, Bool.and_eq_true, decide_eq_true_eq, decide_eq_true_eq]
  rfl

theorem Instr.inContract_updateNoise_iff (feedback shift : Nat) :
    (Instr.updateNoise feedback shift).inContract = true ↔ feedback < 2 ∧ shift < 4 := by
  rw [Instr.inContract, Bool.and_eq_true, decide_eq_true_eq, decide_eq_true_eq]
  rfl

theorem Instr.inContract_updateAttenuation_iff (channel db : Nat) :
    (Instr.updateAttenuation channel db).inContract = true ↔ (channel < 4 ∧ db % 2 = 0) ∧ db ≤ 30 := by
  rw [Instr.inContract, Bool.and_eq_true, Bool.and_eq_true, decide_eq_true_eq, decide_eq_true_eq, beq_iff_eq]
  rfl

end Sys2Proof
end

