-- ==== Sys2Proof/Tests/Slice0.lean ====
section
/-! SUPPORT. Small tests, and a witness for every statement that has hypotheses. Expected results come from the worked
examples and vectors of `95_test_vectors.md` (their numbers stand in the comments) or are written out by hand from a rule. -/

namespace Sys2Proof.Tests

open Sys2Proof.Machine

/-- A state about to issue `program`, with `out` already sent. -/
def about (program : List Request) (out : List Byte) : State :=
  { program := program, pos := 0, out := out }

/-- `out` after an outcome, none where there is no next state. -/
def outOf : Host.Outcome State Fault Refusal → Option (List Byte)
  | .next t => some t.out
  | .fault _ => none
  | .refused _ => none

/-- The position after an outcome. -/
def posOf : Host.Outcome State Fault Refusal → Option Nat
  | .next t => some t.pos
  | .fault _ => none
  | .refused _ => none

/-- Whether an outcome is the refusal of a reserved selector. -/
def isReserved : Host.Outcome State Fault Refusal → Bool
  | .next _ => false
  | .fault _ => false
  | .refused r => r == .reservedOp

/-! Well-formedness: one ill-formed term for each check. -/

theorem test_request_reserved_op_ill_formed : (Request.mk 0b11#2 0 0).wellFormed = false := by decide
theorem test_request_well_formed : (Request.mk 0b10#2 4 1000).wellFormed = true := by decide
theorem test_instr_well_formed : (Instr.updateFrequency 100 5000).wellFormed = true := by decide
theorem test_contract_frequency_channel : (Instr.updateFrequency 3 0).inContract = false := by decide
theorem test_contract_frequency_divisor : (Instr.updateFrequency 0 1024).inContract = false := by decide
theorem test_contract_noise_feedback : (Instr.updateNoise 2 0).inContract = false := by decide
theorem test_contract_noise_shift : (Instr.updateNoise 0 4).inContract = false := by decide
theorem test_contract_attenuation_channel : (Instr.updateAttenuation 4 0).inContract = false := by decide
theorem test_contract_attenuation_odd : (Instr.updateAttenuation 0 15).inContract = false := by decide
theorem test_contract_attenuation_range : (Instr.updateAttenuation 0 32).inContract = false := by decide

/-- Rule R5: the parameters fit together, and the divisor's two parts fill the data fields of rules R62 and R63. -/
theorem test_parameters_fit : Config.latchHiWidth + Config.dataLoWidth = Config.divWidth ∧
    Config.numRegs = 2 ^ Config.addrWidth ∧ Config.numRegs = Config.addrMax + 1 ∧
    Config.numRegs = 2 * Config.numChannels ∧ Config.addrNoiseCtrl = 2 * Config.numToneChannels ∧
    1 + Config.addrWidth + Config.attWidth = Config.byteWidth ∧
    1 + Config.fbWidth + Config.shWidth = Config.attWidth := by decide

/-! Decoding, words written out from rule R60. -/

/-- S1: `(0b00, 0, 0x155)`. -/
theorem test_decode_frequency : decode ⟨0b00#2, 0, 0x155⟩ = .ok (.updateFrequency 0 0x155) := by rfl
/-- S3: `(0b01, 1, 2)`. -/
theorem test_decode_noise : decode ⟨0b01#2, 1, 2⟩ = .ok (.updateNoise 1 2) := by rfl
/-- S2: `(0b10, 1, 10)`. -/
theorem test_decode_attenuation : decode ⟨0b10#2, 1, 10⟩ = .ok (.updateAttenuation 1 10) := by rfl
/-- X2: `(0b11, 5, 1000)`. -/
theorem test_decode_reserved : decode ⟨0b11#2, 5, 1000⟩ = .error .reservedOp := by rfl
theorem test_table_word_frequency : decodeTableWord 8 0x0 = some (.updateFrequency 0 0) := by decide
theorem test_table_word_noise : decodeTableWord 8 0x1 = some (.updateNoise 0 0) := by decide
theorem test_table_word_attenuation : decodeTableWord 8 0x2 = some (.updateAttenuation 0 0) := by decide
theorem test_table_word_reserved : decodeTableWord 8 0x3 = none := by decide
/-- The fetched word runs as the first request after reset: N1. -/
theorem test_first_after_reset : outOf (step (State.reset.withFetchWord 8 0x1)) = some [0xE0#8] := by decide

/-! One step of each operation, at most two tests each. -/

/-- S1. -/
theorem test_frequency_example : outOf (exec (.updateFrequency 0 0x155) (about [] [])) = some [0x85#8, 0x15#8] := by decide
/-- F10: under the other byte split it would be `[0xC0, 0x20]`. -/
theorem test_frequency_high_bit : outOf (exec (.updateFrequency 2 0x200) (about [] [0x90#8])) =
    some [0x90#8, 0xC8#8, 0x00#8] := by decide
/-- N12: feedback 6 → 0, shift 5 → 1. -/
theorem test_noise_masks : outOf (exec (.updateNoise 6 5) (about [] [])) = some [0xE1#8] := by decide
/-- S3. -/
theorem test_noise_example : outOf (exec (.updateNoise 1 2) (about [] [])) = some [0xE6#8] := by decide
/-- A5. -/
theorem test_attenuation_odd : outOf (exec (.updateAttenuation 2 15) (about [] [])) = some [0xD7#8] := by decide
/-- A13. -/
theorem test_attenuation_wraps : outOf (exec (.updateAttenuation 2 63) (about [] [])) = some [0xDF#8] := by decide
/-- X1, and P5's second request. -/
theorem test_reserved_refused : isReserved (step (about [⟨0b11#2, 0, 0⟩] [0x90#8])) = true := by decide

/-! Notation: lines of P4 and a hexadecimal literal of P2. -/

theorem test_read_line : readLine (nameAttenuation ++ ['(', '2', ',', ' ', '3', '1', ')']) =
    some (.updateAttenuation 2 31) := by decide
theorem test_read_hex : readLine (nameFrequency ++ ['(', '2', ',', ' ', '0', 'x', '3', 'F', 'F', ')']) =
    some (.updateFrequency 2 0x3FF) := by decide
theorem test_read_other_name_refused : readLine (nameUpdate ++ ['(', '2', ',', ' ', '3', '1', ')']) = none := by decide

/-! Witnesses: a state and operands that meet the hypotheses of each statement, at the bounds of each clause. -/

/-- StepRunsTheDecodedInstruction, PositionAdvancesByOnePerRequest, StepHasExactlyTwoOutcomes (first clause). -/
theorem witness_request_decodes : (about [⟨0b10#2, 0, 30⟩] []).program[0]? = some ⟨0b10#2, 0, 30⟩ ∧
    decode ⟨0b10#2, 0, 30⟩ = .ok (.updateAttenuation 0 30) ∧ (⟨0b10#2, 0, 30⟩ : Request).op ≠ 0b11#2 :=
  ⟨rfl, rfl, by decide⟩

/-- ReservedSelectorIsRefused, StepHasExactlyTwoOutcomes (second clause). -/
theorem witness_request_reserved : (about [⟨0b11#2, 7, 1⟩] []).program[0]? = some ⟨0b11#2, 7, 1⟩ ∧
    (⟨0b11#2, 7, 1⟩ : Request).op = 0b11#2 := ⟨rfl, rfl⟩

/-- StepIdlesWhenNoRequestIsLeft, at the end of the list. -/
theorem witness_no_request_left :
    (⟨[⟨0b01#2, 0, 0⟩], 1, [0xE0#8]⟩ : State).program.length ≤ (⟨[⟨0b01#2, 0, 0⟩], 1, [0xE0#8]⟩ : State).pos := by decide

/-- PlacedRequestRunsNext. -/
theorem witness_placed_word : decodeTableWord 8 0b10 = some (.updateAttenuation 0 0) := by decide

/-- OutputStreamOnlyGrows: a step that serves a request. -/
theorem witness_step_next : ∃ t, step (about [⟨0b01#2, 1, 2⟩] []) = .next t ∧ t.out = [0xE6#8] := ⟨_, rfl, by decide⟩

/-- RequestsLeaveListAndSentBytesAlone. -/
theorem witness_exec_next : ∃ t, exec (.updateFrequency 2 0x3FF) (about [] [0xFF#8]) = .next t ∧
    t.out = [0xFF#8, 0xCF#8, 0x3F#8] := ⟨_, rfl, by decide⟩

/-- FrequencyTransmitsLatchThenDataByte, FrequencyAcceptsExactlyTheToneChannels, FrequencyDivisorZeroIsEncodedAsZero,
EmittedBytesGiveEachFieldBack: the last channel accepted (F14). -/
theorem witness_frequency_accepted : 2 * 2 < 6 ∧ (2 : Nat) ≤ 2 ∧
    outOf (exec (.updateFrequency 2 0xFFFF) (about [] [])) = some [0xCF#8, 0x3F#8] := by decide

/-- The same statements' other clause: the first channel dropped (F16), and a channel that a 3-bit address would wrap
(F18). -/
theorem witness_frequency_dropped : 6 ≤ 3 * 2 ∧ ¬ 3 * 2 < 6 ∧
    outOf (exec (.updateFrequency 3 0x155) (about [] [0xE0#8])) = some [0xE0#8] ∧
    posOf (exec (.updateFrequency 4 5) (about [] [])) = some 1 := by decide

/-- AttenuationTransmitsOneLatchByte, AttenuationAcceptsExactlyFourChannels, AttenuationFieldIsHalfTheDecibelsMasked,
EmittedBytesGiveEachFieldBack: the last channel accepted (A7). -/
theorem witness_attenuation_accepted : 3 * 2 + 1 ≤ 7 ∧ (3 : Nat) ≤ 3 ∧
    outOf (exec (.updateAttenuation 3 30) (about [] [])) = some [0xFF#8] := by decide

/-- The same statements' other clause: the first channel dropped (A15). -/
theorem witness_attenuation_dropped : 7 < 4 * 2 + 1 ∧ ¬ 4 * 2 + 1 ≤ 7 ∧
    outOf (exec (.updateAttenuation 4 0) (about [] [])) = some [] := by decide

/-- AttenuationWrapsFromThirtyTwo: 32 wraps (A9), 30 and 31 are OFF (A3, A8), 29 is not. -/
theorem witness_attenuation_wraps : 32 ≤ 32 ∧ 31 < 32 ∧ (3 : Nat) ≤ 3 ∧
    outOf (exec (.updateAttenuation 0 32) (about [] [])) = some [0x90#8] ∧
    outOf (exec (.updateAttenuation 0 31) (about [] [])) = some [0x9F#8] ∧
    outOf (exec (.updateAttenuation 0 30) (about [] [])) = some [0x9F#8] ∧
    outOf (exec (.updateAttenuation 0 29) (about [] [])) = some [0x9E#8] := by decide

/-- LatchAddressIsTheFullComputedAddress: a byte of each operation that meets its clause's hypotheses. -/
theorem witness_latch_address :
    (∃ t, exec (.updateFrequency 2 64) (about [] []) = .next t ∧ 0xC1#8 ∈ t.out.drop 0 ∧ (0xC1#8).getLsbD 7 = true) ∧
    (∃ t, exec (.updateNoise 1 3) (about [] []) = .next t ∧ 0xE7#8 ∈ t.out.drop 0) ∧
    (∃ t, exec (.updateAttenuation 3 0) (about [] []) = .next t ∧ 0xF0#8 ∈ t.out.drop 0) :=
  ⟨⟨_, rfl, by decide⟩, ⟨_, rfl, by decide⟩, ⟨_, rfl, by decide⟩⟩

/-- EmittedByteValuesAreTheClosedSet: values at the bounds of the set, in it and beside it. -/
theorem witness_byte_values : emittable 0x3F#8 = true ∧ emittable 0x40#8 = false ∧ emittable 0x7F#8 = false ∧
    emittable 0x80#8 = true ∧ emittable 0xE7#8 = true ∧ emittable 0xE8#8 = false ∧ emittable 0xEF#8 = false ∧
    emittable 0xF0#8 = true := by decide

/-- MaskingNeverChangesWhatARequestDoes, RequestsInContractAreToldApartByTheirBytes: requests at the bounds of the
contract, and two of them with the same bytes. -/
theorem witness_in_contract : (Instr.updateFrequency 2 1023).inContract = true ∧
    (Instr.updateNoise 1 3).inContract = true ∧ (Instr.updateAttenuation 3 30).inContract = true ∧
    (Instr.updateAttenuation 3 30).bytes = (Instr.updateAttenuation 3 30).bytes := by decide

/-- RunAppendsTheBytesOfEveryRequest, first clauses: a list that decodes. -/
theorem witness_list_decodes : decodeProgram ((about [⟨0b00#2, 0, 254⟩, ⟨0b10#2, 0, 30⟩] []).program.drop 0) =
    .ok [.updateFrequency 0 254, .updateAttenuation 0 30] := rfl

/-- RunAppendsTheBytesOfEveryRequest, last clause, and P5: a list with a reserved request. -/
theorem witness_list_reserved : ∃ req ∈ (about [⟨0b10#2, 0, 0⟩, ⟨0b11#2, 0, 0⟩] []).program.drop 0, req.op = 0b11#2 :=
  ⟨⟨0b11#2, 0, 0⟩, by decide, rfl⟩

/-- RunCompletesExactlyWhenNothingIsReserved: a state that is safe and one that is not. -/
theorem witness_safe_and_unsafe : (about [⟨0b10#2, 0, 0⟩] []).safe ∧ ¬ (about [⟨0b11#2, 0, 0⟩] []).safe := by
  constructor
  · unfold State.safe
    decide
  · unfold State.safe
    decide

/-- StepKeepsOutputEqualToServedRequests: a consistent state past its first request, with a step to take. -/
theorem witness_consistent : (⟨[⟨0b01#2, 1, 3⟩, ⟨0b00#2, 3, 9⟩], 1, [0xE7#8]⟩ : State).consistent ∧
    ∃ t, step ⟨[⟨0b01#2, 1, 3⟩, ⟨0b00#2, 3, 9⟩], 1, [0xE7#8]⟩ = .next t ∧ t.pos = 2 :=
  ⟨⟨by unfold State.posInList; decide, [.updateNoise 1 3], rfl, rfl⟩, _, rfl, rfl⟩

/-- OutputCutsIntoOneGroupPerRequest: a frequency latch byte, its data byte and another latch byte of one output. -/
theorem witness_output_positions :
    [Instr.updateFrequency 0 254, .updateFrequency 3 1, .updateAttenuation 0 30].flatMap Instr.bytes =
      [0x83#8, 0x3E#8, 0x9F#8] := by decide

/-- ReadRequestsSendTheStreamReadFrom, and the cut of a stream that ends in a torn pair. -/
theorem witness_stream_reads : readStream [0x83#8, 0x3E#8, 0x9F#8] =
    some [.updateFrequency 0 254, .updateAttenuation 0 30] ∧ readStream [0x9F#8, 0x83#8] = none ∧
    readStream [0x3E#8] = none ∧ readStream [0xE8#8] = none := by decide

/-- StepKeepsTheOutputStreamWhole. -/
theorem witness_stream_whole : (about [⟨0b00#2, 1, 1500⟩] [0xE1#8]).streamWhole ∧
    ∃ t, step (about [⟨0b00#2, 1, 1500⟩] [0xE1#8]) = .next t ∧ t.out = [0xE1#8, 0xA7#8, 0x1C#8] :=
  ⟨by unfold State.streamWhole; decide, _, rfl, by decide⟩

/-- AttenuationFieldMeansTheDecibelsAskedFor: the bounds of its clauses. -/
theorem witness_decibels : (14#4).toNat ≤ 14 ∧ (15#4).toNat = 15 ∧ 28 ≤ 28 ∧ 28 % 2 = 0 ∧ 30 ≤ 31 ∧ 31 ≤ 31 ∧
    decibelsOf 14#4 = some 28 ∧ decibelsOf 15#4 = none := by decide

/-- CodesAndFrequencyReadAsTheSpecLists: a divisor that is not 0. -/
theorem witness_divisor : (1 : Nat) ≠ 0 := by decide

end Sys2Proof.Tests
end

section
/-! Proofs of the family `10_state`: what a request emits (rule R20) and the register-layout table (rule R21). -/

namespace Sys2Proof.Machine

/-- The whole next state of an instruction, with its bytes a function of the instruction alone (rules R20, R24). -/
theorem exec_eq_append_bytes (i : Instr) (s : State) :
    exec i s = .next { s with out := s.out ++ i.bytes, pos := s.pos + 1 } := by
  rw [exec_eq_serve, State.serve_eq]

/-- The request a register is written by begins with a latch byte that carries the register's address: the owner is
within the range its operation accepts, and the address computed from the owner is the register's own (rule R21). -/
theorem PsgReg.bytes_writtenBy (r : PsgReg) (x y : Nat) :
    ∃ (d4 : BitVec 4) (bs : List Byte), (r.writtenBy x y).bytes = latch r.addr d4 :: bs := by
  cases r with
  | tone0Freq | tone1Freq | tone2Freq =>
    exact ⟨divisorHigh x, [data (divisorLow x)], bytesFrequency_of_le _ x (by decide)⟩
  | noiseCtrl => exact ⟨noiseField x y, [], bytesNoise_eq x y⟩
  | tone0Atten | tone1Atten | tone2Atten | noiseAtten =>
    exact ⟨attenField x, [], bytesAttenuation_of_le _ x (by decide)⟩

/-- Settles O29: the first byte is a latch byte of the register's address, so its bit 7 is set and its address field
reads back as that address. -/
theorem registerLayoutIsTheAddressSent : Obligations.RegisterLayoutIsTheAddressSent := by
  refine ⟨rfl, fun r x y s => ?_⟩
  obtain ⟨d4, bs, hbytes⟩ := r.bytes_writtenBy x y
  refine ⟨latch r.addr d4, bs, ?_, isLatchByte_latch r.addr d4, addrField_latch r.addr d4⟩
  rw [exec_eq_append_bytes, hbytes]

/-- Settles O11: the list is `Instr.bytes`, which reads no state. -/
theorem emissionDependsOnTheRequestAlone : Obligations.EmissionDependsOnTheRequestAlone :=
  fun i => ⟨i.bytes, exec_eq_append_bytes i⟩

end Sys2Proof.Machine
end

section
/-! Proofs of the family `20_memory`: how many transmits one request issues (rule R47). -/

namespace Sys2Proof.Machine

/-- Two transmits when the channel has a frequency register, none when the request is dropped (rules R47, R101). -/
theorem length_bytesFrequency (channel divisor : Nat) :
    (bytesFrequency channel divisor).length = if channel ≤ 2 then 2 else 0 := by
  by_cases h : channel ≤ 2
  · simp [bytesFrequency_of_le channel divisor h, h]
  · simp [bytesFrequency_of_gt channel divisor (by omega), h]

/-- One transmit when the channel exists, none when the request is dropped (rules R47, R141). -/
theorem length_bytesAttenuation (channel db : Nat) :
    (bytesAttenuation channel db).length = if channel ≤ 3 then 1 else 0 := by
  by_cases h : channel ≤ 3
  · simp [bytesAttenuation_of_le channel db h, h]
  · simp [bytesAttenuation_of_gt channel db (by omega), h]

/-- Settles O14: the bytes appended are `Instr.bytes`, and each operation's list has the length rule R47 counts. -/
theorem requestsIssueZeroOneOrTwoTransmits : Obligations.RequestsIssueZeroOneOrTwoTransmits := by
  refine ⟨fun channel divisor s => ?_, fun feedback shift s => ?_, fun channel db s => ?_⟩
  · exact ⟨_, exec_eq_append_bytes _ s, length_bytesFrequency channel divisor⟩
  · exact ⟨_, exec_eq_append_bytes _ s, congrArg List.length (bytesNoise_eq feedback shift)⟩
  · exact ⟨_, exec_eq_append_bytes _ s, length_bytesAttenuation channel db⟩

end Sys2Proof.Machine
end

section
/-! Proofs of the family `30_encoding`: the byte formats (rules R62, R63, R69), masked and dropped requests (rules R66,
R68), the reader of the output stream against what the block sends (rules R45, R64, R65), and the written calls (rule
R72). -/

namespace Sys2Proof.Machine

/-! ### Fields and byte formats -/

/-- Settles O15: the fields of a latch byte are appended, and appending is a shift and an or of numbers. -/
theorem byteFormatsAreTheSpecsFormulas : Obligations.ByteFormatsAreTheSpecsFormulas := by
  refine ⟨fun reg d4 => ?_, fun d6 => ⟨data_toNat_eq d6, isLatchByte_data d6, ?_⟩⟩
  · calc (latch reg d4).toNat
        = (1#1 ++ reg).toNat <<< 4 ||| d4.toNat := BitVec.toNat_append _ _
      _ = (1 <<< 3 ||| reg.toNat) <<< 4 ||| d4.toNat := by rw [BitVec.toNat_append]; rfl
      _ = 0x80 ||| (reg.toNat <<< 4) ||| d4.toNat := by rw [Nat.shiftLeft_or_distrib]; rfl
  · exact BitVec.getLsbD_append.trans rfl

/-- The low four bits of a latch byte are its data field (rule R62). -/
theorem getLsbD_latch_of_lt (reg : BitVec 3) (d4 : BitVec 4) {n : Nat} (hn : n < 4) :
    (latch reg d4).getLsbD n = d4.getLsbD n :=
  BitVec.getLsbD_append.trans (if_pos hn)

theorem getLsbD_feedbackBit (feedback : Nat) : (feedbackBit feedback).getLsbD 0 = feedback.testBit 0 := by
  rw [← BitVec.testBit_toNat, feedbackBit_toNat, Nat.testBit_mod_two_pow feedback 1 0]
  simp

theorem getLsbD_shiftBits_of_lt (shift : Nat) {n : Nat} (hn : n < 2) :
    (shiftBits shift).getLsbD n = shift.testBit n := by
  rw [← BitVec.testBit_toNat, shiftBits_toNat, Nat.testBit_mod_two_pow shift 2 n]
  simp [hn]

/-- The shift rate is the low two bits of the noise-control field, below the feedback and a zero bit (rule R69). -/
theorem getLsbD_noiseField (feedback shift n : Nat) :
    (noiseField feedback shift).getLsbD n =
      if n < 2 then (shiftBits shift).getLsbD n else (0#1 ++ feedbackBit feedback).getLsbD (n - 2) :=
  BitVec.getLsbD_append

/-- The noise-control field bit by bit: bit 3 is no operand's (rules R69, R122). -/
theorem noiseField_bits (feedback shift : Nat) :
    (noiseField feedback shift).getLsbD 3 = false ∧
    (noiseField feedback shift).getLsbD 2 = feedback.testBit 0 ∧
    (noiseField feedback shift).getLsbD 1 = shift.testBit 1 ∧
    (noiseField feedback shift).getLsbD 0 = shift.testBit 0 := by
  simp only [getLsbD_noiseField]
  exact ⟨BitVec.getLsbD_append, BitVec.getLsbD_append.trans (getLsbD_feedbackBit feedback),
    getLsbD_shiftBits_of_lt shift (by decide), getLsbD_shiftBits_of_lt shift (by decide)⟩

/-- Settles O22: the byte is the latch byte of address 6 and the noise field, so its bits are those of the format and of
the field. -/
theorem noiseByteLayoutKeepsBitThreeZero : Obligations.NoiseByteLayoutKeepsBitThreeZero := by
  intro feedback shift s
  obtain ⟨h3, h2, h1, h0⟩ := noiseField_bits feedback shift
  exact ⟨latch 6#3 (noiseField feedback shift), exec_eq_append_bytes (.updateNoise feedback shift) s,
    isLatchByte_latch _ _, addrField_latch _ _,
    (getLsbD_latch_of_lt _ _ (by decide)).trans h3, (getLsbD_latch_of_lt _ _ (by decide)).trans h2,
    (getLsbD_latch_of_lt _ _ (by decide)).trans h1, (getLsbD_latch_of_lt _ _ (by decide)).trans h0⟩

/-! ### Dropped requests -/

/-- The two kinds of request that emit no byte (rule R68). -/
theorem bytes_eq_nil_iff (i : Instr) :
    i.bytes = [] ↔
      (∃ channel divisor, i = .updateFrequency channel divisor ∧ 3 ≤ channel) ∨
      (∃ channel db, i = .updateAttenuation channel db ∧ 4 ≤ channel) := by
  constructor
  · intro h
    cases i with
    | updateFrequency c d =>
      refine .inl ⟨c, d, rfl, Nat.lt_of_not_le fun hc => ?_⟩
      simp [Instr.bytes, bytesFrequency_of_le c d hc] at h
    | updateNoise f sh => simp [Instr.bytes, bytesNoise_eq] at h
    | updateAttenuation c db =>
      refine .inr ⟨c, db, rfl, Nat.lt_of_not_le fun hc => ?_⟩
      simp [Instr.bytes, bytesAttenuation_of_le c db hc] at h
  · rintro (⟨c, d, rfl, hc⟩ | ⟨c, db, rfl, hc⟩)
    · exact bytesFrequency_of_gt c d hc
    · exact bytesAttenuation_of_gt c db hc

/-- An instruction moves the position and nothing else exactly when it emits no byte (rules R24, R68). -/
theorem exec_eq_advance_iff (i : Instr) (s : State) :
    exec i s = .next { s with pos := s.pos + 1 } ↔ i.bytes = [] := by
  rw [exec_eq_append_bytes]
  simp

/-- Settles O31: only a request without bytes leaves `out` as it is. -/
theorem exactlyTwoKindsOfRequestAreDropped : Obligations.ExactlyTwoKindsOfRequestAreDropped :=
  fun i s => (exec_eq_advance_iff i s).trans (bytes_eq_nil_iff i)

/-! ### Masked operands -/

theorem divisorHigh_mod (divisor : Nat) : divisorHigh (divisor % 1024) = divisorHigh divisor :=
  BitVec.eq_of_toNat_eq (by rw [divisorHigh_toNat, divisorHigh_toNat]; omega)

theorem divisorLow_mod (divisor : Nat) : divisorLow (divisor % 1024) = divisorLow divisor :=
  BitVec.eq_of_toNat_eq (by rw [divisorLow_toNat, divisorLow_toNat]; omega)

theorem noiseField_mod (feedback shift : Nat) :
    noiseField (feedback % 2) (shift % 4) = noiseField feedback shift :=
  BitVec.eq_of_toNat_eq (by rw [noiseField_toNat, noiseField_toNat]; omega)

/-- The even dB value below 32 that stands for a field has that field (log entry 18). -/
theorem attenField_even (db : Nat) : attenField (db / 2 % 16 * 2) = attenField db :=
  BitVec.eq_of_toNat_eq (by rw [attenField_toNat, attenField_toNat]; omega)

/-- Masking the operands leaves the bytes as they are: every field is read from the masked bits (rules R66, R105, R121,
R142). -/
@[simp] theorem bytes_masked (i : Instr) : i.masked.bytes = i.bytes := by
  cases i with
  | updateFrequency c d =>
    simp only [Instr.masked, Instr.bytes, bytesFrequency, divisorHigh_mod, divisorLow_mod]
  | updateNoise f sh => simp only [Instr.masked, Instr.bytes, bytesNoise, noiseField_mod]
  | updateAttenuation c db => simp only [Instr.masked, Instr.bytes, bytesAttenuation, attenField_even]

theorem masked_masked (i : Instr) : i.masked.masked = i.masked := by
  cases i <;> simp [Instr.masked]

/-- An instruction within the document's contract is masked already (log entry 16). -/
theorem masked_of_inContract (i : Instr) (h : i.inContract = true) : i.masked = i := by
  cases i with
  | updateFrequency c d =>
    obtain ⟨-, hd⟩ := (Instr.inContract_updateFrequency_iff c d).1 h
    rw [Instr.masked, Nat.mod_eq_of_lt hd]
  | updateNoise f sh =>
    obtain ⟨hf, hsh⟩ := (Instr.inContract_updateNoise_iff f sh).1 h
    rw [Instr.masked, Nat.mod_eq_of_lt hf, Nat.mod_eq_of_lt hsh]
  | updateAttenuation c db =>
    obtain ⟨⟨-, heven⟩, hdb⟩ := (Instr.inContract_updateAttenuation_iff c db).1 h
    have hfield : db / 2 % 16 * 2 = db := by omega
    rw [Instr.masked, hfield]

/-- Settles O32: what an instruction does is its bytes, and the masked instruction has the same. -/
theorem maskingNeverChangesWhatARequestDoes : Obligations.MaskingNeverChangesWhatARequestDoes := by
  refine fun i => ⟨fun s => ?_, masked_masked i, masked_of_inContract i⟩
  rw [exec_eq_append_bytes, exec_eq_append_bytes, bytes_masked]

/-! ### The reader of the output stream -/

/-- A byte starts a pair exactly when it is a latch byte for a tone channel's frequency register (rules R21, R64). -/
theorem startsPair_iff (b : Byte) :
    startsPair b = true ↔ ∃ channel d4, channel ≤ 2 ∧ b = latch (BitVec.ofNat 3 (channel * 2)) d4 := by
  constructor
  · intro h
    simp only [startsPair, Bool.and_eq_true, Bool.or_eq_true, beq_iff_eq] at h
    obtain ⟨hlatch, haddr⟩ := h
    have hb := latch_of_isLatchByte b hlatch
    rcases haddr with (h0 | h2) | h4
    · exact ⟨0, latchField b, by decide, by rw [← hb, h0]; simp⟩
    · exact ⟨1, latchField b, by decide, by rw [← hb, h2]; simp⟩
    · exact ⟨2, latchField b, by decide, by rw [← hb, h4]; simp⟩
  · rintro ⟨channel, d4, h, rfl⟩
    rw [startsPair_latch]
    interval_cases channel <;> decide

/-- A byte with bits 7 and 6 zero is a data byte of its own field (rule R63). -/
theorem data_of_toNat_le (b : Byte) (h : b.toNat ≤ 0x3F) : data (dataField b) = b := by
  revert b
  decide

/-- Of the latch bytes exactly the noise-control bytes with bit 3 set are never emitted (rule R65). -/
theorem emittable_latch (reg : BitVec 3) (d4 : BitVec 4) :
    emittable (latch reg d4) = true ↔ (reg = 6#3 → d4.toNat < 8) := by
  revert reg d4
  decide

/-- The two parts of a divisor, put together again (rule R45). -/
theorem joinDivisor_latch_data (reg : BitVec 3) (d4 : BitVec 4) (d6 : BitVec 6) :
    joinDivisor (latch reg d4) (data d6) = d4.toNat * 64 + d6.toNat := by
  have high : (latch reg d4).toNat &&& 0x0F = d4.toNat := by
    rw [Nat.and_two_pow_sub_one_eq_mod _ 4, latch_toNat_eq_add]
    omega
  have low : (data d6).toNat &&& 0x3F = d6.toNat := by
    rw [Nat.and_two_pow_sub_one_eq_mod _ 6, data_toNat_eq]
    omega
  rw [joinDivisor, high, low, ← Nat.shiftLeft_add_eq_or_of_lt d6.isLt, Nat.shiftLeft_eq]

theorem readGroup_frequency (channel : Nat) (d4 : BitVec 4) (d6 : BitVec 6) (h : channel ≤ 2) :
    readGroup (.pair (latch (BitVec.ofNat 3 (channel * 2)) d4) (data d6)) =
      some (.updateFrequency channel (d4.toNat * 64 + d6.toNat)) := by
  have hpair := (startsPair_iff _).2 ⟨channel, d4, h, rfl⟩
  have hdata : (data d6).toNat ≤ 0x3F := by
    rw [data_toNat_eq]
    omega
  have hchannel : channel * 2 % 8 / 2 = channel := by omega
  simp [readGroup, hpair, hdata, hchannel, joinDivisor_latch_data]

theorem readGroup_noise (d4 : BitVec 4) (h : d4.toNat < 8) :
    readGroup (.single (latch 6#3 d4)) = some (.updateNoise (d4.toNat / 4) (d4.toNat % 4)) := by
  have hemit := (emittable_latch 6#3 d4).2 fun _ => h
  simp [readGroup, startsPair_latch, hemit]

theorem readGroup_attenuation (channel : Nat) (d4 : BitVec 4) (h : channel ≤ 3) :
    readGroup (.single (latch (BitVec.ofNat 3 (channel * 2 + 1)) d4)) =
      some (.updateAttenuation channel (d4.toNat * 2)) := by
  have hpair : startsPair (latch (BitVec.ofNat 3 (channel * 2 + 1)) d4) = false := by
    rw [startsPair_latch]
    interval_cases channel <;> decide
  have haddr : BitVec.ofNat 3 (channel * 2 + 1) ≠ 6#3 := by interval_cases channel <;> decide
  have hemit := (emittable_latch _ d4).2 fun h6 => absurd h6 haddr
  have hchannel : (channel * 2 + 1) % 8 / 2 = channel := by omega
  simp [readGroup, hpair, hemit, haddr, hchannel]

/-- Every address is a tone channel's frequency register, the noise-control register or a channel's attenuation register
(rule R21). -/
theorem addr_cases (reg : BitVec 3) :
    (∃ channel ≤ 2, reg = BitVec.ofNat 3 (channel * 2)) ∨ reg = 6#3 ∨
    (∃ channel ≤ 3, reg = BitVec.ofNat 3 (channel * 2 + 1)) := by
  revert reg
  decide

/-- The groups that are read, case by case: a frequency pair, a noise-control byte with bit 3 zero, or an attenuation
byte (rules R64, R65). -/
theorem readGroup_some_cases (g : ByteGroup) (i : Instr) (h : readGroup g = some i) :
    (∃ channel d4 d6, channel ≤ 2 ∧ g = .pair (latch (BitVec.ofNat 3 (channel * 2)) d4) (data d6)) ∨
    (∃ d4 : BitVec 4, d4.toNat < 8 ∧ g = .single (latch 6#3 d4)) ∨
    (∃ channel d4, channel ≤ 3 ∧ g = .single (latch (BitVec.ofNat 3 (channel * 2 + 1)) d4)) := by
  cases g with
  | pair b d =>
    by_cases hguard : startsPair b = true ∧ d.toNat ≤ 0x3F
    · obtain ⟨hpair, hdata⟩ := hguard
      obtain ⟨channel, d4, hc, rfl⟩ := (startsPair_iff b).1 hpair
      exact .inl ⟨channel, d4, dataField d, hc, by rw [data_of_toNat_le d hdata]⟩
    · simp [readGroup, hguard] at h
  | single b =>
    by_cases hguard : (!isLatchByte b || startsPair b || !emittable b) = true
    · simp [readGroup, hguard] at h
    · simp only [Bool.or_eq_true, Bool.not_eq_true', not_or, Bool.not_eq_false, Bool.not_eq_true] at hguard
      obtain ⟨⟨hlatch, hpair⟩, hemit⟩ := hguard
      obtain ⟨reg, d4, rfl⟩ : ∃ reg d4, b = latch reg d4 := ⟨_, _, (latch_of_isLatchByte b hlatch).symm⟩
      rcases addr_cases reg with ⟨channel, hc, rfl⟩ | rfl | ⟨channel, hc, rfl⟩
      · rw [(startsPair_iff _).2 ⟨channel, d4, hc, rfl⟩] at hpair
        cases hpair
      · exact .inr (.inl ⟨d4, (emittable_latch 6#3 d4).1 hemit rfl, rfl⟩)
      · exact .inr (.inr ⟨channel, d4, hc, rfl⟩)

/-! ### Reading what was sent -/

/-- Reading the one group an instruction sends gives its masked form; a dropped instruction sends none. -/
theorem mapM_readGroup_groupsOf (i : Instr) :
    (groupsOf i).mapM readGroup = some (([i].filter Instr.accepted).map Instr.masked) := by
  rcases bytes_cases i with ⟨hb, ha⟩ | ⟨c, d, hc, rfl, ha, hb⟩ | ⟨f, sh, rfl, ha, hb⟩ | ⟨c, db, hc, rfl, ha, hb⟩
  · simp [groupsOf, hb, ha]
  · have hdivisor : d / 64 % 16 * 64 + d % 64 = d % 1024 := by omega
    simp [groupsOf, hb, ha, readGroup_frequency c _ _ hc, divisorHigh_toNat, divisorLow_toNat, hdivisor, Instr.masked]
  · have hfield := noiseField_toNat f sh
    have hf : (noiseField f sh).toNat / 4 = f % 2 := by omega
    have hsh : (noiseField f sh).toNat % 4 = sh % 4 := by omega
    simp [groupsOf, hb, ha, readGroup_noise (noiseField f sh) (by omega), hf, hsh, Instr.masked]
  · simp [groupsOf, hb, ha, readGroup_attenuation c _ hc, attenField_toNat, Instr.masked]

/-- Reading is cutting and then reading each group. -/
theorem readStream_eq_bind (bs : List Byte) : readStream bs = (cutStream bs).bind (List.mapM readGroup) := by
  cases h : cutStream bs <;> simp [readStream, h]

/-- Reading a stream that begins with the bytes of one instruction reads that instruction off first. -/
theorem readStream_bytes_append (i : Instr) (rest : List Byte) :
    readStream (i.bytes ++ rest) =
      (readStream rest).map (([i].filter Instr.accepted).map Instr.masked ++ ·) := by
  rw [readStream_eq_bind, readStream_eq_bind, cutStream_bytes_append]
  cases cutStream rest with
  | none => rfl
  | some groups => simp [List.mapM_append, mapM_readGroup_groupsOf, Option.map_eq_bind]

/-- Settles O39, by induction over the instructions: each is read off the front of the stream. -/
theorem readingTheOutputGivesTheAcceptedRequests : Obligations.ReadingTheOutputGivesTheAcceptedRequests := by
  intro is
  induction is with
  | nil => rfl
  | cons i is ih =>
    rw [List.flatMap_cons, readStream_bytes_append, ih, Option.map_some, ← List.map_append, ← List.filter_append,
      List.singleton_append]

/-! ### Sending what was read -/

/-- The instruction read from a group sends that group. -/
theorem bytes_of_readGroup (g : ByteGroup) (i : Instr) (h : readGroup g = some i) : i.bytes = g.toBytes := by
  rcases readGroup_some_cases g i h with ⟨channel, d4, d6, hc, rfl⟩ | ⟨d4, hd4, rfl⟩ | ⟨channel, d4, hc, rfl⟩
  · rw [readGroup_frequency channel d4 d6 hc] at h
    cases h
    have high : divisorHigh (d4.toNat * 64 + d6.toNat) = d4 :=
      BitVec.eq_of_toNat_eq (by rw [divisorHigh_toNat]; omega)
    have low : divisorLow (d4.toNat * 64 + d6.toNat) = d6 :=
      BitVec.eq_of_toNat_eq (by rw [divisorLow_toNat]; omega)
    rw [Instr.bytes, bytesFrequency_of_le channel _ hc, high, low, ByteGroup.toBytes]
  · rw [readGroup_noise d4 hd4] at h
    cases h
    have field : noiseField (d4.toNat / 4) (d4.toNat % 4) = d4 :=
      BitVec.eq_of_toNat_eq (by rw [noiseField_toNat]; omega)
    rw [Instr.bytes, bytesNoise_eq, field, ByteGroup.toBytes]
  · rw [readGroup_attenuation channel d4 hc] at h
    cases h
    have field : attenField (d4.toNat * 2) = d4 :=
      BitVec.eq_of_toNat_eq (by rw [attenField_toNat]; omega)
    rw [Instr.bytes, bytesAttenuation_of_le channel _ hc, field, ByteGroup.toBytes]

/-- Cutting a stream keeps every byte, in order (rule R64). -/
theorem flatMap_toBytes_of_cutStream (bs : List Byte) (groups : List ByteGroup) (h : cutStream bs = some groups) :
    groups.flatMap ByteGroup.toBytes = bs := by
  induction bs using cutStream.induct generalizing groups with
  | case1 =>
    cases h
    rfl
  | case2 b hsingle =>
    rw [cutStream, if_pos hsingle] at h
    cases h
    rfl
  | case3 b hnone => simp [cutStream, hnone] at h
  | case4 b d rest hb hd => simp [cutStream, hb, hd] at h
  | case5 b d rest hb hd ih =>
    rw [cutStream_pair b d rest hb (Bool.eq_false_of_not_eq_true hd)] at h
    obtain ⟨groups', hcut, rfl⟩ := Option.map_eq_some_iff.1 h
    simp [ByteGroup.toBytes, ih groups' hcut]
  | case6 b d rest hp hb ih =>
    rw [cutStream_single b (d :: rest) hb (Bool.eq_false_of_not_eq_true hp)] at h
    obtain ⟨groups', hcut, rfl⟩ := Option.map_eq_some_iff.1 h
    simp [ByteGroup.toBytes, ih groups' hcut]
  | case7 b d rest hp hb => simp [cutStream, hp, hb] at h

theorem flatMap_bytes_of_mapM_readGroup (groups : List ByteGroup) (is : List Instr)
    (h : groups.mapM readGroup = some is) : is.flatMap Instr.bytes = groups.flatMap ByteGroup.toBytes := by
  induction groups generalizing is with
  | nil => simp_all
  | cons g groups ih =>
    simp only [List.mapM_cons, Option.bind_eq_bind, Option.bind_eq_some_iff, Option.pure_def, Option.some.injEq] at h
    obtain ⟨i, hi, is', his', rfl⟩ := h
    rw [List.flatMap_cons, List.flatMap_cons, bytes_of_readGroup g i hi, ih is' his']

/-- Settles O40: each group is what its instruction sends, and the groups are the stream. -/
theorem readRequestsSendTheStreamReadFrom : Obligations.ReadRequestsSendTheStreamReadFrom := by
  intro bs is h
  rw [readStream_eq_bind] at h
  obtain ⟨groups, hcut, hread⟩ := Option.bind_eq_some_iff.1 h
  rw [flatMap_bytes_of_mapM_readGroup groups is hread, flatMap_toBytes_of_cutStream bs groups hcut]

/-- A stream is whole exactly when it is the bytes of some list of instructions. -/
theorem streamWhole_iff (s : State) : s.streamWhole ↔ ∃ is : List Instr, s.out = is.flatMap Instr.bytes := by
  rw [State.streamWhole, Option.isSome_iff_exists]
  constructor
  · rintro ⟨is, h⟩
    exact ⟨is, (readRequestsSendTheStreamReadFrom s.out is h).symm⟩
  · rintro ⟨is, h⟩
    exact ⟨_, h ▸ readingTheOutputGivesTheAcceptedRequests is⟩

/-- Settles O41: a whole stream is the bytes of some instructions, and a step appends those of one more or none. -/
theorem stepKeepsTheOutputStreamWhole : Obligations.StepKeepsTheOutputStreamWhole := by
  intro s t hs hstep
  rcases step_next_inv s t hstep with ⟨-, rfl⟩ | ⟨req, i, -, -, rfl⟩
  · exact hs
  · obtain ⟨is, his⟩ := (streamWhole_iff s).1 hs
    exact (streamWhole_iff _).2 ⟨is ++ [i], by simp [his]⟩

/-! ### Written calls -/

/-- Reading up to a delimiter that the part before it does not hold. -/
theorem takeWhile_dropWhile_delimiter (xs ys : List Char) (c : Char) (h : c ∉ xs) :
    (xs ++ c :: ys).takeWhile (· != c) = xs ∧ (xs ++ c :: ys).dropWhile (· != c) = c :: ys := by
  have hp : ∀ x ∈ xs, (x != c) = true := fun x hx => bne_iff_ne.2 fun hxc => h (hxc ▸ hx)
  rw [List.takeWhile_append_of_pos hp, List.dropWhile_append_of_pos hp]
  simp

/-- A decimal literal holds digits only. -/
theorem not_mem_toDigits (n : Nat) (c : Char) (h : c.isDigit = false) : c ∉ Nat.toDigits 10 n := fun hc => by
  rw [Nat.isDigit_of_mem_toDigits (by decide) (by decide) hc] at h
  cases h

theorem paren_not_mem_callName (i : Instr) : '(' ∉ callName i := by
  have hnames : '(' ∉ nameFrequency ∧ '(' ∉ nameNoise ∧ '(' ∉ nameAttenuation := by decide
  obtain ⟨hfrequency, hnoise, hattenuation⟩ := hnames
  cases i with
  | updateFrequency => exact hfrequency
  | updateNoise => exact hnoise
  | updateAttenuation => exact hattenuation

theorem instrOfCall_callName (i : Instr) : instrOfCall (callName i) (callArgs i).1 (callArgs i).2 = some i := by
  cases i <;> rfl

/-- A line of a name and two decimal literals is read part by part (rule R72). -/
theorem readLine_call (name : List Char) (arg0 arg1 : Nat) (h : '(' ∉ name) :
    readLine (name ++ '(' :: (Nat.toDigits 10 arg0 ++ ',' :: ' ' :: (Nat.toDigits 10 arg1 ++ [')']))) =
      instrOfCall name arg0 arg1 := by
  obtain ⟨htake, hdrop⟩ := takeWhile_dropWhile_delimiter name
    (Nat.toDigits 10 arg0 ++ ',' :: ' ' :: (Nat.toDigits 10 arg1 ++ [')'])) '(' h
  obtain ⟨htake0, hdrop0⟩ := takeWhile_dropWhile_delimiter (Nat.toDigits 10 arg0)
    (' ' :: (Nat.toDigits 10 arg1 ++ [')'])) ',' (not_mem_toDigits arg0 ',' rfl)
  obtain ⟨htake1, hdrop1⟩ := takeWhile_dropWhile_delimiter (Nat.toDigits 10 arg1) [] ')'
    (not_mem_toDigits arg1 ')' rfl)
  simp [readLine, htake, hdrop, htake0, hdrop0, htake1, hdrop1, readLiteral_toDigits]

/-- Settles O43: the name and the two literals are read back each as itself. -/
theorem writtenCallReadsBackAsItself : Obligations.WrittenCallReadsBackAsItself := by
  intro i
  have hline : writeLine i = callName i ++
      '(' :: (Nat.toDigits 10 (callArgs i).1 ++ ',' :: ' ' :: (Nat.toDigits 10 (callArgs i).2 ++ [')'])) := by
    simp [writeLine]
  rw [hline, readLine_call _ _ _ (paren_not_mem_callName i), instrOfCall_callName]

end Sys2Proof.Machine
end

section
/-! Proofs of the family `40_frequency`: the two bytes of a frequency request (rules R100 to R106), the fields a reader
gets back from a request's bytes (rule R45), requests within the contract, and the informative readings (rules R107,
R123). -/

namespace Sys2Proof.Machine

/-! ### Fields and byte formats in the spec's bit arithmetic -/

/-- Divisor bits 9 to 6 (rule R102). -/
theorem divisorHigh_toNat_eq_and (divisor : Nat) : (divisorHigh divisor).toNat = (divisor >>> 6) &&& 0xF := by
  rw [divisorHigh_toNat, Nat.and_two_pow_sub_one_eq_mod _ 4, Nat.shiftRight_eq_div_pow]

/-- Divisor bits 5 to 0 (rule R103). -/
theorem divisorLow_toNat_eq_and (divisor : Nat) : (divisorLow divisor).toNat = divisor &&& 0x3F := by
  rw [divisorLow_toNat, Nat.and_two_pow_sub_one_eq_mod _ 6]

/-- The shift rate lies below the feedback, so adding the two is or-ing them (rule R121). -/
theorem noiseField_toNat_eq_or (feedback shift : Nat) :
    (noiseField feedback shift).toNat = ((feedback &&& 1) <<< 2) ||| (shift &&& 3) := by
  have hshift : shift &&& 3 = shift % 4 := Nat.and_two_pow_sub_one_eq_mod shift 2
  rw [noiseField_toNat, Nat.and_one_is_mod, hshift, ← Nat.shiftLeft_add_eq_or_of_lt (Nat.mod_lt _ (by decide)),
    Nat.shiftLeft_eq]

/-- Half of the dB value, rounded down, in 4 bits (rule R142). -/
theorem attenField_toNat_eq_and (db : Nat) : (attenField db).toNat = db / 2 &&& 0xF := by
  rw [attenField_toNat, Nat.and_two_pow_sub_one_eq_mod _ 4]

/-- The latch format for an address given as a number: one below 8 is kept whole (rules R62, R67). -/
theorem latch_ofNat_toNat_eq_or (addr : Nat) (d4 : BitVec 4) (h : addr < 8) :
    (latch (BitVec.ofNat 3 addr) d4).toNat = 0x80 ||| (addr <<< 4) ||| d4.toNat := by
  rw [byteFormatsAreTheSpecsFormulas.1, BitVec.toNat_ofNat, Nat.mod_eq_of_lt h]

/-- The low four bits of a latch byte are its data field (rule R62). -/
theorem latch_toNat_and_low (reg : BitVec 3) (d4 : BitVec 4) : (latch reg d4).toNat &&& 0x0F = d4.toNat := by
  rw [Nat.and_two_pow_sub_one_eq_mod _ 4, latch_toNat_eq_add]
  omega

/-! ### The bytes of a frequency request -/

/-- A frequency request for a tone channel transmits its latch byte and then its data byte (rules R100, R104). -/
theorem exec_updateFrequency_of_le (channel divisor : Nat) (s : State) (h : channel ≤ 2) :
    exec (.updateFrequency channel divisor) s = .next { s with
      out := s.out ++ [latch (BitVec.ofNat 3 (channel * 2)) (divisorHigh divisor), data (divisorLow divisor)]
      pos := s.pos + 1 } := by
  rw [exec_eq_append_bytes, Instr.bytes, bytesFrequency_of_le channel divisor h]

/-- A frequency request for any other channel moves the position and nothing else (rule R101). -/
theorem exec_updateFrequency_of_gt (channel divisor : Nat) (s : State) (h : 3 ≤ channel) :
    exec (.updateFrequency channel divisor) s = .next { s with pos := s.pos + 1 } :=
  (exec_eq_advance_iff _ s).2 (bytesFrequency_of_gt channel divisor h)

/-- Settles O16: `channel * 2 < 6` says that the channel is a tone channel, and the two bytes are the formats of
rules R62 and R63 on the two parts of the divisor. -/
theorem frequencyTransmitsLatchThenDataByte : Obligations.FrequencyTransmitsLatchThenDataByte := by
  refine fun channel divisor s => ⟨fun haccept => ?_, fun hdrop => ?_⟩
  · refine ⟨_, _, ?_, ?_, exec_updateFrequency_of_le channel divisor s (by omega)⟩
    · rw [latch_ofNat_toNat_eq_or _ _ (by omega), divisorHigh_toNat_eq_and]
    · rw [data_toNat_eq, divisorLow_toNat_eq_and]
  · exact exec_updateFrequency_of_gt channel divisor s (by omega)

/-- Settles O18: the divisor mod 1024 is the divisor of the masked instruction. -/
theorem frequencyDivisorIsMaskedToTenBits : Obligations.FrequencyDivisorIsMaskedToTenBits := by
  intro channel v s
  have hexec : exec (.updateFrequency channel v) s = exec (.updateFrequency channel (v % 1024)) s :=
    ((maskingNeverChangesWhatARequestDoes (.updateFrequency channel v)).1 s).symm
  have hand : v &&& 0x3FF = v % 1024 := Nat.and_two_pow_sub_one_eq_mod v 10
  exact ⟨(bytes_masked (.updateFrequency channel v)).symm, hexec, by rw [hand, hexec]⟩

/-- Settles O17: acceptance is O16's condition, and the bytes sent are a latch byte and a data byte. -/
theorem frequencyAcceptsExactlyTheToneChannels : Obligations.FrequencyAcceptsExactlyTheToneChannels := by
  refine fun channel divisor s => ⟨by omega, fun haccept => ?_, fun hdrop => ?_⟩
  · exact ⟨_, List.cons_ne_nil _ _, exec_updateFrequency_of_le channel divisor s (by omega)⟩
  · exact exec_updateFrequency_of_gt channel divisor s (by omega)

/-- Settles O19: both parts of divisor 0 are 0 in the bytes of O16. -/
theorem frequencyDivisorZeroIsEncodedAsZero : Obligations.FrequencyDivisorZeroIsEncodedAsZero := by
  intro channel s h
  obtain ⟨b1, b2, hlatch, hdata, hexec⟩ := (frequencyTransmitsLatchThenDataByte channel 0 s).1 (by omega)
  have hzero : b2 = 0x00#8 := BitVec.eq_of_toNat_eq hdata
  exact ⟨b1, hlatch.trans (Nat.or_zero _), hzero ▸ hexec⟩

/-! ### Fields read back from the bytes -/

/-- The two parts of the divisor, put together again, are its low 10 bits (rules R45, R102, R103). -/
theorem joinDivisor_of_divisor (reg : BitVec 3) (divisor : Nat) :
    joinDivisor (latch reg (divisorHigh divisor)) (data (divisorLow divisor)) = divisor % 1024 := by
  rw [joinDivisor_latch_data, divisorHigh_toNat, divisorLow_toNat]
  omega

/-- Settles O20: the divisor is joined from the two bytes, and every other field is the data field of a latch byte. -/
theorem emittedBytesGiveEachFieldBack : Obligations.EmittedBytesGiveEachFieldBack := by
  refine ⟨fun channel v s h => ?_, fun feedback shift s => ?_, fun channel db s h => ?_⟩
  · exact ⟨_, _, exec_updateFrequency_of_le channel v s h, (joinDivisor_of_divisor _ v).symm⟩
  · refine ⟨_, exec_eq_append_bytes (.updateNoise feedback shift) s, isLatchByte_latch _ _, ?_⟩
    rw [latch_toNat_and_low, noiseField_toNat_eq_or]
  · refine ⟨latch (BitVec.ofNat 3 (channel * 2 + 1)) (attenField db), ?_, isLatchByte_latch _ _, ?_⟩
    · rw [exec_eq_append_bytes, Instr.bytes, bytesAttenuation_of_le channel db h]
    · rw [latch_toNat_and_low, attenField_toNat_eq_and]

/-! ### Requests within the contract -/

/-- The contract names registers that exist, so no request within it is dropped (rules R100, R120, R140). -/
theorem accepted_of_inContract (i : Instr) (h : i.inContract = true) : i.accepted = true := by
  have hbytes : i.bytes ≠ [] := fun hnil => by
    rcases (bytes_eq_nil_iff i).1 hnil with ⟨channel, divisor, rfl, hc⟩ | ⟨channel, db, rfl, hc⟩
    · obtain ⟨htone, -⟩ := (Instr.inContract_updateFrequency_iff channel divisor).1 h
      omega
    · obtain ⟨⟨hfour, -⟩, -⟩ := (Instr.inContract_updateAttenuation_iff channel db).1 h
      omega
  simp [Instr.accepted, hbytes]

/-- A reader of its bytes gets an instruction within the contract back as it is. -/
theorem readStream_bytes_of_inContract (i : Instr) (h : i.inContract = true) : readStream i.bytes = some [i] := by
  simpa [accepted_of_inContract i h, masked_of_inContract i h] using readingTheOutputGivesTheAcceptedRequests [i]

/-- Settles O33: reading the bytes is a left inverse of sending them. -/
theorem requestsInContractAreToldApartByTheirBytes : Obligations.RequestsInContractAreToldApartByTheirBytes := by
  intro i j hi hj hbytes
  have hread : some [i] = some [j] := by
    rw [← readStream_bytes_of_inContract i hi, hbytes, readStream_bytes_of_inContract j hj]
  cases hread
  rfl

/-! ### Informative readings -/

/-- Settles O45: the codes are read one by one, and the frequency by whether the divisor is 0. -/
theorem codesAndFrequencyReadAsTheSpecLists : Obligations.CodesAndFrequencyReadAsTheSpecLists :=
  ⟨rfl, rfl, rfl, if_pos rfl, fun _ hdivisor => if_neg hdivisor⟩

end Sys2Proof.Machine
end

section
/-! Proofs of the family `41_noise`: the one byte of a noise request (rules R120, R121). -/

namespace Sys2Proof.Machine

/-- A noise request transmits its latch byte, whatever the operands (rules R120, R122). -/
theorem exec_updateNoise_eq (feedback shift : Nat) (s : State) :
    exec (.updateNoise feedback shift) s = .next { s with
      out := s.out ++ [latch 6#3 (noiseField feedback shift)]
      pos := s.pos + 1 } := by
  rw [exec_eq_append_bytes, Instr.bytes, bytesNoise_eq]

/-- The noise byte in the spec's bit arithmetic: address 6, then the feedback and shift fields (rule R120). -/
theorem latch_noiseField_toNat_eq_or (feedback shift : Nat) :
    (latch 6#3 (noiseField feedback shift)).toNat =
      0x80 ||| (0b110 <<< 4) ||| ((feedback &&& 1) <<< 2) ||| (shift &&& 3) := by
  rw [latch_ofNat_toNat_eq_or 6 _ (by decide), noiseField_toNat_eq_or, ← Nat.or_assoc]

/-- Settles O21: the byte is the latch byte of address 6 and the noise field, and the operands mod 2 and mod 4 are those
of the masked instruction. -/
theorem noiseTransmitsOneMaskedLatchByte : Obligations.NoiseTransmitsOneMaskedLatchByte := by
  refine fun feedback shift s => ⟨⟨_, ?byte, exec_updateNoise_eq feedback shift s⟩, ?maskedBytes, ?maskedExec⟩
  case byte => exact latch_noiseField_toNat_eq_or feedback shift
  case maskedBytes => exact (bytes_masked (.updateNoise feedback shift)).symm
  case maskedExec => exact ((maskingNeverChangesWhatARequestDoes (.updateNoise feedback shift)).1 s).symm

end Sys2Proof.Machine
end

section
/-! Proofs of the family `42_attenuation`: the one byte of an attenuation request, or none (rules R140, R141, R144), and
the decibels a field is read as (rule R143). -/

namespace Sys2Proof.Machine

/-! ### The byte of an attenuation request -/

/-- An attenuation request for channels 0 to 3 transmits its latch byte (rules R140, R144). -/
theorem exec_updateAttenuation_of_le (channel db : Nat) (s : State) (h : channel ≤ 3) :
    exec (.updateAttenuation channel db) s = .next { s with
      out := s.out ++ [latch (BitVec.ofNat 3 (channel * 2 + 1)) (attenField db)]
      pos := s.pos + 1 } := by
  rw [exec_eq_append_bytes, Instr.bytes, bytesAttenuation_of_le channel db h]

/-- An attenuation request for any other channel moves the position and nothing else (rule R141). -/
theorem exec_updateAttenuation_of_gt (channel db : Nat) (s : State) (h : 4 ≤ channel) :
    exec (.updateAttenuation channel db) s = .next { s with pos := s.pos + 1 } :=
  (exec_eq_advance_iff _ s).2 (bytesAttenuation_of_gt channel db h)

/-- Settles O23: an address up to 7 is that of channels 0 to 3 and fits the latch byte whole, and the byte is the format
of rule R62 on the halved and masked dB value. -/
theorem attenuationTransmitsOneLatchByte : Obligations.AttenuationTransmitsOneLatchByte := by
  refine fun channel db s => ⟨fun haccept => ?_, fun hdrop => ?_⟩
  · refine ⟨_, ?_, exec_updateAttenuation_of_le channel db s (by omega)⟩
    rw [latch_ofNat_toNat_eq_or _ _ (by omega), attenField_toNat_eq_and]
  · exact exec_updateAttenuation_of_gt channel db s (by omega)

/-- Settles O24: acceptance is O23's condition, and the bytes sent are one latch byte. -/
theorem attenuationAcceptsExactlyFourChannels : Obligations.AttenuationAcceptsExactlyFourChannels := by
  refine fun channel db s => ⟨by omega, fun haccept => ?_, fun hdrop => ?_⟩
  · exact ⟨_, List.cons_ne_nil _ _, exec_updateAttenuation_of_le channel db s (by omega)⟩
  · exact exec_updateAttenuation_of_gt channel db s (by omega)

/-! ### The decibels of a field -/

/-- A field below 15 reads as two decibels per unit (rule R143). -/
theorem decibelsOf_of_le (field : BitVec 4) (h : field.toNat ≤ 14) : decibelsOf field = some (2 * field.toNat) := by
  have hnotOff : field ≠ 15#4 := fun hoff => absurd (hoff ▸ h) (by decide)
  rw [decibelsOf, if_neg hnotOff, Nat.mul_comm, Config.dbStep]

/-- Field 15 reads as OFF (rule R143). -/
theorem decibelsOf_of_eq (field : BitVec 4) (h : field.toNat = 15) : decibelsOf field = none :=
  if_pos (BitVec.eq_of_toNat_eq h)

/-- Settles O44: the field of a dB value below 32 is half of it (rule R142), so an even one up to 28 is doubled back,
and 30 and 31 give field 15. -/
theorem attenuationFieldMeansTheDecibelsAskedFor : Obligations.AttenuationFieldMeansTheDecibelsAskedFor := by
  refine ⟨fun field => ⟨decibelsOf_of_le field, decibelsOf_of_eq field⟩,
    fun db => ⟨fun hle heven => ?_, fun hge hle => ?_⟩⟩
  · have hhalf : (attenField db).toNat = db / 2 := by rw [attenField_toNat]; omega
    rw [decibelsOf_of_le _ (by omega), hhalf, Nat.two_mul_div_two_of_even (Nat.even_iff.2 heven)]
  · have hoff : (attenField db).toNat = 15 := by rw [attenField_toNat]; omega
    exact decibelsOf_of_eq _ hoff

end Sys2Proof.Machine
end

section
/-! Proofs of the family `60_exceptions`: the idle block (rule R215). -/

namespace Sys2Proof.Machine

/-- No request is left exactly when the position is at or past the end of the list (rule R29). -/
theorem State.nextRequest_eq_none_iff (s : State) : s.nextRequest = none ↔ s.program.length ≤ s.pos :=
  List.getElem?_eq_none_iff

/-- A step that fetches no request idles (rule R215, log entry 1). -/
theorem step_of_nextRequest_eq_none (s : State) (hnone : s.nextRequest = none) : step s = .next s := by
  rw [step, hnone, State.idle_eq]

/-- Settles O5: a position at or past the end of the list fetches no request, and the step that fetches none idles. -/
theorem stepIdlesWhenNoRequestIsLeft : Obligations.StepIdlesWhenNoRequestIsLeft :=
  fun s hend => step_of_nextRequest_eq_none s (s.nextRequest_eq_none_iff.2 hend)

end Sys2Proof.Machine
end

section
/-! Proofs of the family `70_reset_and_hazards`: dB values that a request does not tell apart, wrapped (rule R245) or
odd (rule R246). -/

namespace Sys2Proof.Machine

/-! ### What a dB value counts for -/

/-- Two instructions that send the same bytes do the same (rules R20, R24). -/
theorem exec_eq_of_bytes_eq {i j : Instr} (h : i.bytes = j.bytes) (s : State) : exec i s = exec j s := by
  rw [exec_eq_serve, exec_eq_serve, h]

/-- Only half of the dB value mod 16 counts for the field (rule R142). -/
theorem attenField_eq_iff (a b : Nat) : attenField a = attenField b ↔ a / 2 % 16 = b / 2 % 16 := by
  rw [← BitVec.toNat_inj, attenField_toNat, attenField_toNat]

/-- A dB value counts for the bytes of a request through its field alone, on any channel (rule R140). -/
theorem bytes_updateAttenuation_of_attenField_eq (channel : Nat) {a b : Nat} (h : attenField a = attenField b) :
    (Instr.updateAttenuation channel a).bytes = (Instr.updateAttenuation channel b).bytes := by
  rw [Instr.bytes, Instr.bytes, bytesAttenuation, bytesAttenuation, h]

/-- Settles O26: halving rounds down, so an odd dB value has the field of the even one below it. -/
theorem attenuationOddDecibelsRoundDown : Obligations.AttenuationOddDecibelsRoundDown := by
  intro channel k s
  have hfield : attenField (2 * k + 1) = attenField (2 * k) := (attenField_eq_iff _ _).2 (by omega)
  have hbytes := bytes_updateAttenuation_of_attenField_eq channel hfield
  exact ⟨hbytes, exec_eq_of_bytes_eq hbytes s⟩

/-! ### The field in the byte sent -/

/-- The low nibble of a latch byte, as a remainder, is its data field (rule R62). -/
theorem latch_toNat_mod (reg : BitVec 3) (d4 : BitVec 4) : (latch reg d4).toNat % 16 = d4.toNat := by
  rw [latch_toNat_eq_add]
  omega

/-- The one byte sent for channels 0 to 3 has half of the dB value mod 16 in its low nibble (rules R140, R142). -/
theorem exec_updateAttenuation_low_nibble (channel db : Nat) (s : State) (h : channel ≤ 3) :
    ∃ b : Byte, b.toNat % 16 = db / 2 % 16 ∧
      exec (.updateAttenuation channel db) s = .next { s with out := s.out ++ [b], pos := s.pos + 1 } :=
  ⟨_, (latch_toNat_mod _ _).trans (attenField_toNat db), exec_updateAttenuation_of_le channel db s h⟩

/-- Settles O27: 32 dB are 16 units, which the 4-bit mask takes away, and below 32 half of the dB value is the field
itself, which is 15 for 30 and 31 alone. -/
theorem attenuationWrapsFromThirtyTwo : Obligations.AttenuationWrapsFromThirtyTwo := by
  refine ⟨fun channel db s hwrap => ?_, fun channel s h => ?_, fun channel db s h hlt => ?_⟩
  · have hfield : attenField db = attenField (db - 32) := (attenField_eq_iff _ _).2 (by omega)
    exact exec_eq_of_bytes_eq (bytes_updateAttenuation_of_attenField_eq channel hfield) s
  · exact exec_updateAttenuation_low_nibble channel 32 s h
  · obtain ⟨b, hlow, hexec⟩ := exec_updateAttenuation_low_nibble channel db s h
    exact ⟨b, by omega, hexec⟩

end Sys2Proof.Machine
end

section
/-! Proofs of the family `other`: requests and single steps (rules R24, R28, R29, R49, R60, R61, R214), reset and whole
runs (rules R29, R31, R214), the cut of the output (rule R64) and the bytes sent (rules R65, R67, R142). -/

namespace Sys2Proof.Machine

/-! ### Requests and instructions -/

/-- Settles O2: each word is decoded by evaluation. -/
theorem tableWordsDecodeToTheirOperation : Obligations.TableWordsDecodeToTheirOperation :=
  ⟨rfl, rfl, rfl, rfl, rfl, rfl, rfl, rfl⟩

theorem decode_encode (i : Instr) : decode (encode i) = .ok i := by
  cases i <;> rfl

/-- A request that decodes is the encoding of the instruction, operand for operand (rule R60). -/
theorem encode_of_decode_ok (req : Request) (i : Instr) (h : decode req = .ok i) : encode i = req := by
  rcases decode_cases req with ⟨hop, hd⟩ | ⟨hop, hd⟩ | ⟨hop, hd⟩ | ⟨-, hd⟩ <;> rw [hd] at h <;> cases h
  · rw [encode, selFrequency, ← hop]
  · rw [encode, selNoise, ← hop]
  · rw [encode, selAttenuation, ← hop]

/-- Settles O3: encoding inverts decoding on both sides, and decoding fails on the reserved selector alone. -/
theorem decodeAndEncodeAgreeBothWays : Obligations.DecodeAndEncodeAgreeBothWays := by
  refine ⟨fun i req => ⟨encode_of_decode_ok req i, ?_⟩, fun req => decode_error_iff req .reservedOp⟩
  rintro rfl
  exact decode_encode i

theorem decodeTableWord_eq_some_iff (nbits w : Nat) (i : Instr) :
    decodeTableWord nbits w = some i ↔ decode (Request.ofTableWord nbits w) = .ok i := by
  cases h : decode (Request.ofTableWord nbits w) <;> simp [decodeTableWord, h]

/-! ### Single steps -/

/-- A decoded request is served with exactly its bytes appended (rules R24, R29). -/
theorem step_eq_append_bytes (s : State) (req : Request) (i : Instr) (hnext : s.program[s.pos]? = some req)
    (hd : decode req = .ok i) : step s = .next { s with out := s.out ++ i.bytes, pos := s.pos + 1 } := by
  rw [step_of_decode_ok s req i hnext hd, State.serve_eq]

/-- Settles O8: a request decodes unless its selector is the reserved one, and a run stops at a refusal. -/
theorem stepHasExactlyTwoOutcomes : Obligations.StepHasExactlyTwoOutcomes := by
  refine ⟨fun s req hnext => ⟨fun hop => ?_, fun hop k => ?_⟩, fun _ f => nomatch f⟩
  · obtain ⟨i, hd⟩ := decode_ok_of_op req hop
    exact ⟨i, hd, step_eq_append_bytes s req i hnext hd⟩
  · exact runFor_succ_refused k s _ (step_of_decode_error s req hnext hop)

/-- Settles O4: executing an instruction is serving its bytes. -/
theorem stepRunsTheDecodedInstruction : Obligations.StepRunsTheDecodedInstruction := by
  intro s req i hnext hd
  rw [step_of_decode_ok s req i hnext hd, exec_eq_serve]

/-- Settles O6: the placed request stands at the position, where the step fetches it. -/
theorem placedRequestRunsNext : Obligations.PlacedRequestRunsNext := fun s nbits w i hword =>
  stepRunsTheDecodedInstruction _ _ i (placeRequest_getElem? s.program s.pos _)
    ((decodeTableWord_eq_some_iff nbits w i).1 hword)

/-- Settles O7: the reserved selector is the one the decoder has no instruction for. -/
theorem reservedSelectorIsRefused : Obligations.ReservedSelectorIsRefused :=
  step_of_decode_error

/-- Settles O9: a request that is not reserved is served, whatever its bytes. -/
theorem positionAdvancesByOnePerRequest : Obligations.PositionAdvancesByOnePerRequest := by
  intro s req hnext hop
  obtain ⟨i, hd⟩ := decode_ok_of_op req hop
  exact ⟨_, step_eq_append_bytes s req i hnext hd, rfl, rfl⟩

/-- Settles O10: an idle step appends no byte, and a served request its own. -/
theorem outputStreamOnlyGrows : Obligations.OutputStreamOnlyGrows := by
  refine ⟨fun _ _ => rfl, fun s t hstep => ?_⟩
  rcases step_next_inv s t hstep with ⟨-, rfl⟩ | ⟨_, i, -, -, rfl⟩
  · exact ⟨[], (List.append_nil _).symm⟩
  · exact ⟨i.bytes, State.serve_out _ _⟩

/-- Settles O12: an instruction's bytes read no state, so the second call appends the same. -/
theorem repeatedRequestAppendsItsBytesAgain : Obligations.RepeatedRequestAppendsItsBytesAgain := by
  intro i s
  refine ⟨i.bytes, _, _, exec_eq_serve i s, State.serve_out _ _, exec_eq_serve i _, ?_⟩
  rw [State.serve_out, State.serve_out]

/-- Settles O13: an instruction's next state is the state with its bytes served. -/
theorem requestsLeaveListAndSentBytesAlone : Obligations.RequestsLeaveListAndSentBytesAlone := by
  intro i s t hexec
  obtain rfl := exec_next_inv i s t hexec
  exact ⟨State.serve_program _ _, by rw [State.serve_out, List.take_left], State.serve_pos _ _⟩

/-! ### Whole runs -/

/-- When a request is left, it stands at the position, and the others are left after it (rule R24). -/
theorem getElem?_and_drop_of_drop_eq_cons {program rest : List Request} {pos : Nat} {req : Request}
    (h : program.drop pos = req :: rest) : program[pos]? = some req ∧ program.drop (pos + 1) = rest := by
  constructor
  · rw [← List.head?_drop, h, List.head?_cons]
  · rw [← List.tail_drop, h, List.tail_cons]

/-- What a run of the requests left comes to, by what they decode to (rules R29, R214). -/
def State.runOutcome (s : State) : Except DecodeError (List Instr) → Host.Outcome State Fault Refusal
  | .ok is => .next { s with out := s.out ++ is.flatMap Instr.bytes, pos := s.pos + is.length }
  | .error e => .refused (refusalOf e)

/-- Serving one request first is running its instruction before the others. -/
theorem State.runOutcome_serve (s : State) (i : Instr) (decoded : Except DecodeError (List Instr)) :
    (s.serve i.bytes).runOutcome decoded = s.runOutcome (decoded.map (i :: ·)) := by
  cases decoded with
  | error e => rfl
  | ok is => simp [State.runOutcome, Except.map, State.serve_eq, Nat.add_assoc, Nat.add_comm 1]

/-- A run of the requests left serves every one of them in order, or is refused whole, by induction over them (rules
R29, R214). -/
theorem runFor_remaining (reqs : List Request) (s : State) (h : s.program.drop s.pos = reqs) :
    runFor reqs.length s = s.runOutcome (decodeProgram reqs) := by
  induction reqs generalizing s with
  | nil => simp [State.runOutcome]
  | cons req rest ih =>
    obtain ⟨hnext, hrest⟩ := getElem?_and_drop_of_drop_eq_cons h
    rw [List.length_cons]
    cases hd : decode req with
    | ok i =>
      rw [runFor_succ_next _ _ _ (step_of_decode_ok s req i hnext hd), ih _ (by simpa using hrest),
        State.runOutcome_serve, decodeProgram_cons_ok req rest i hd]
    | error e =>
      have hstep := step_of_decode_error s req hnext ((decode_error_iff req e).1 hd)
      rw [runFor_succ_refused _ _ _ hstep, decodeProgram_cons_error req rest e hd]
      cases e
      rfl

/-- A state is safe exactly when the requests left decode (rules R61, R214). -/
theorem State.safe_iff (s : State) : s.safe ↔ ∃ is, decodeProgram (s.program.drop s.pos) = .ok is :=
  (decodeProgram_ok_iff _).symm

/-- Settles O34: the outcome of a run of the requests left is read off what they decode to, and a reserved one among
them decodes to nothing. -/
theorem runAppendsTheBytesOfEveryRequest : Obligations.RunAppendsTheBytesOfEveryRequest := by
  refine fun s => ⟨step_eq_append_bytes s, fun is hd => ?_, fun ⟨req, hmem, hop⟩ => ?_⟩
  · have hrun := runFor_remaining _ s rfl
    rwa [hd, ← decodeProgram_length _ is hd] at hrun
  · rw [runFor_remaining _ s rfl]
    cases hd : decodeProgram (s.program.drop s.pos) with
    | ok is => exact absurd hop ((Request.wellFormed_iff req).1 (s.safe_iff.2 ⟨is, hd⟩ req hmem))
    | error e =>
      cases e
      rfl

/-- Settles O35: a run of the requests left answers a next state exactly when they decode. -/
theorem runCompletesExactlyWhenNothingIsReserved : Obligations.RunCompletesExactlyWhenNothingIsReserved := by
  intro s
  rw [s.safe_iff, ← List.length_drop, runFor_remaining _ s rfl]
  cases decodeProgram (s.program.drop s.pos) <;> simp [State.runOutcome]

/-! ### Reset and consistent states -/

/-- Settles O1: the fields of the reset state. -/
theorem resetHasEmptyOutputAtPositionZero : Obligations.ResetHasEmptyOutputAtPositionZero :=
  ⟨State.reset_out, State.reset_pos⟩

/-- Serving the request at the position adds its instruction to those served (rules R24, R29). -/
theorem State.consistent_serve (s : State) (req : Request) (i : Instr) (hs : s.consistent)
    (hnext : s.program[s.pos]? = some req) (hd : decode req = .ok i) : (s.serve i.bytes).consistent := by
  obtain ⟨-, is, his, hout⟩ := hs
  obtain ⟨hlt, -⟩ := List.getElem?_eq_some_iff.1 hnext
  have htake : s.program.take (s.pos + 1) = s.program.take s.pos ++ [req] := by
    rw [List.take_add_one, hnext, Option.toList_some]
  refine ⟨by simpa [State.posInList] using hlt, is ++ [i], ?_, by simp [hout]⟩
  rw [State.serve_program, State.serve_pos, htake]
  exact decodeProgram_append_one _ is req i his hd

/-- Settles O36: a step idles and leaves the state as it is, or serves the request at the position. -/
theorem stepKeepsOutputEqualToServedRequests : Obligations.StepKeepsOutputEqualToServedRequests := by
  intro s t hs hstep
  rcases step_next_inv s t hstep with ⟨-, rfl⟩ | ⟨req, i, hnext, hd, rfl⟩
  · exact hs
  · exact s.consistent_serve req i hs hnext hd

/-- Settles O37: before the first request nothing is served and nothing sent, and reset is a run over the empty list. -/
theorem runsStartConsistent : Obligations.RunsStartConsistent := by
  have hload : ∀ program : List Request, (State.load program).consistent :=
    fun program => ⟨Nat.zero_le _, [], rfl, rfl⟩
  exact ⟨hload [], hload⟩

/-- Settles O42: the empty stream is the bytes of no instructions. -/
theorem resetOutputStreamIsWhole : Obligations.ResetOutputStreamIsWhole :=
  (streamWhole_iff State.reset).2 ⟨[], State.reset_out⟩

/-! ### The cut of the output -/

theorem startsPair_eq_true_iff (b : Byte) :
    startsPair b = true ↔ isLatchByte b = true ∧ (addrField b = 0#3 ∨ addrField b = 2#3 ∨ addrField b = 4#3) := by
  simp [startsPair, or_assoc]

/-- A stream that cuts begins with no data byte (rule R64). -/
theorem isLatchByte_of_cutStream_cons {b : Byte} {rest : List Byte} {groups : List ByteGroup}
    (h : cutStream (b :: rest) = some groups) : isLatchByte b = true := by
  by_contra hdata
  have hpair : startsPair b = false := by simp [startsPair, hdata]
  cases rest with
  | nil => simp [cutStream, hdata] at h
  | cons d rest => simp [cutStream, hdata, hpair] at h

/-- No data byte begins a stream that cuts (rule R64). -/
theorem not_data_head_of_cutStream {bs : List Byte} {groups : List ByteGroup} (h : cutStream bs = some groups) :
    ¬ ∃ d, bs[0]? = some d ∧ isLatchByte d = false := by
  rintro ⟨d, hd, hdata⟩
  cases bs with
  | nil => cases hd
  | cons b rest =>
    cases hd
    rw [isLatchByte_of_cutStream_cons h] at hdata
    cases hdata

/-- In a stream that cuts, a data byte follows every frequency latch byte and no other byte (rule R64). -/
theorem startsPair_iff_data_follows_of_cutStream {bs : List Byte} {groups : List ByteGroup}
    (h : cutStream bs = some groups) (n : Nat) (b : Byte) (hb : bs[n]? = some b) :
    startsPair b = true ↔ ∃ d, bs[n + 1]? = some d ∧ isLatchByte d = false := by
  induction bs using cutStream.induct generalizing groups n with
  | case1 => cases hb
  | case2 c hsingle =>
    obtain ⟨rfl, rfl⟩ : n = 0 ∧ c = b := by simpa [List.getElem?_singleton] using hb
    have hpair : startsPair c = false := by simpa using (Bool.and_eq_true_iff.1 hsingle).2
    simp [hpair]
  | case3 c hnone => simp [cutStream, hnone] at h
  | case4 c d rest hc hd => simp [cutStream, hc, hd] at h
  | case5 c d rest hc hd ih =>
    rw [cutStream_pair c d rest hc (Bool.eq_false_of_not_eq_true hd)] at h
    obtain ⟨groups', hcut, -⟩ := Option.map_eq_some_iff.1 h
    match n with
    | 0 =>
      cases hb
      simp [hc, hd]
    | 1 =>
      cases hb
      have hpair : ¬ startsPair b = true := fun hp => hd ((startsPair_eq_true_iff b).1 hp).1
      exact iff_of_false hpair (not_data_head_of_cutStream hcut)
    | m + 2 => exact ih hcut m hb
  | case6 c d rest hp hc ih =>
    rw [cutStream_single c (d :: rest) hc (Bool.eq_false_of_not_eq_true hp)] at h
    obtain ⟨groups', hcut, -⟩ := Option.map_eq_some_iff.1 h
    match n with
    | 0 =>
      cases hb
      exact iff_of_false hp (not_data_head_of_cutStream hcut)
    | m + 1 => exact ih hcut m hb
  | case7 c d rest hp hc => simp [cutStream, hp, hc] at h

/-- The one group of an instruction holds its bytes, and an instruction that emits none has no group (rule R64). -/
theorem map_toBytes_groupsOf (i : Instr) :
    (groupsOf i).map ByteGroup.toBytes = [i.bytes].filter (fun bs => !bs.isEmpty) := by
  rcases bytes_cases i with ⟨h, -⟩ | ⟨_, _, -, -, -, h⟩ | ⟨_, _, -, -, h⟩ | ⟨_, _, -, -, -, h⟩ <;>
    simp [groupsOf, h, ByteGroup.toBytes]

/-- The cut of the block's output, by induction over the requests: each is cut off the front (rule R64). -/
theorem cutStream_flatMap_bytes (is : List Instr) :
    cutStream (is.flatMap Instr.bytes) = some (is.flatMap groupsOf) := by
  induction is with
  | nil => rfl
  | cons i is ih => rw [List.flatMap_cons, cutStream_bytes_append, ih, Option.map_some, List.flatMap_cons]

theorem map_toBytes_flatMap_groupsOf (is : List Instr) :
    (is.flatMap groupsOf).map ByteGroup.toBytes = (is.map Instr.bytes).filter (fun bs => !bs.isEmpty) := by
  induction is with
  | nil => rfl
  | cons i is ih =>
    rw [List.flatMap_cons, List.map_append, map_toBytes_groupsOf, ih, ← List.filter_append, List.map_cons,
      List.singleton_append]

/-- Settles O38: the output cuts into the groups of its instructions, and a stream that cuts has its data bytes where
rule R64 says. -/
theorem outputCutsIntoOneGroupPerRequest : Obligations.OutputCutsIntoOneGroupPerRequest := by
  intro is
  have hcut := cutStream_flatMap_bytes is
  refine ⟨fun n b hb => ⟨?_, ?_⟩, _, hcut, map_toBytes_flatMap_groupsOf is⟩
  · exact (startsPair_eq_true_iff b).symm.trans (startsPair_iff_data_follows_of_cutStream hcut n b hb)
  · rintro hdata rfl
    exact not_data_head_of_cutStream hcut ⟨b, hb, hdata⟩

/-! ### The bytes sent -/

/-- What an instruction adds to the output is its bytes (rule R28). -/
theorem drop_out_of_exec_eq_next {i : Instr} {s t : State} (h : exec i s = .next t) :
    t.out.drop s.out.length = i.bytes := by
  rw [exec_next_inv i s t h, State.serve_out, List.drop_left]

/-- An instruction sends a byte from some state exactly when the byte is one of its own (rule R20). -/
theorem exists_sent_iff (i : Instr) (b : Byte) :
    (∃ s t : State, exec i s = .next t ∧ b ∈ t.out.drop s.out.length) ↔ b ∈ i.bytes := by
  constructor
  · rintro ⟨s, t, hexec, hb⟩
    rwa [drop_out_of_exec_eq_next hexec] at hb
  · intro hb
    have hexec := exec_eq_serve i State.reset
    exact ⟨_, _, hexec, (drop_out_of_exec_eq_next hexec).symm ▸ hb⟩

/-- The same with a side condition beside it. -/
theorem exists_sent_and_iff (i : Instr) (b : Byte) (P : Prop) :
    (∃ s t : State, exec i s = .next t ∧ b ∈ t.out.drop s.out.length ∧ P) ↔ b ∈ i.bytes ∧ P := by
  simp only [← exists_sent_iff, ← and_assoc, exists_and_right]

theorem mem_bytes_updateFrequency_iff (channel divisor : Nat) (b : Byte) :
    b ∈ (Instr.updateFrequency channel divisor).bytes ↔ channel ≤ 2 ∧
      (b = latch (BitVec.ofNat 3 (channel * 2)) (divisorHigh divisor) ∨ b = data (divisorLow divisor)) := by
  rw [Instr.bytes]
  by_cases h : channel ≤ 2
  · simp [bytesFrequency_of_le channel divisor h, h]
  · simp [bytesFrequency_of_gt channel divisor (by omega), h]

theorem mem_bytes_updateNoise_iff (feedback shift : Nat) (b : Byte) :
    b ∈ (Instr.updateNoise feedback shift).bytes ↔ b = latch 6#3 (noiseField feedback shift) := by
  rw [Instr.bytes, bytesNoise_eq, List.mem_singleton]

theorem mem_bytes_updateAttenuation_iff (channel db : Nat) (b : Byte) :
    b ∈ (Instr.updateAttenuation channel db).bytes ↔ channel ≤ 3 ∧
      b = latch (BitVec.ofNat 3 (channel * 2 + 1)) (attenField db) := by
  rw [Instr.bytes]
  by_cases h : channel ≤ 3
  · simp [bytesAttenuation_of_le channel db h, h]
  · simp [bytesAttenuation_of_gt channel db (by omega), h]

/-- The address field of a latch byte sent for an address below 8 is that address, not a wrapped one (rule R67). -/
theorem addrField_latch_ofNat_toNat (addr : Nat) (d4 : BitVec 4) (h : addr < 8) :
    (addrField (latch (BitVec.ofNat 3 addr) d4)).toNat = addr := by
  rw [addrField_latch, BitVec.toNat_ofNat, Nat.mod_eq_of_lt h]

/-- Settles O28: a request sends bytes for a channel in range alone, whose address fits the 3 bits. -/
theorem latchAddressIsTheFullComputedAddress : Obligations.LatchAddressIsTheFullComputedAddress := by
  refine ⟨fun channel divisor s t b hexec hb hlatch => ?_, fun feedback shift s t b hexec hb => ?_,
    fun channel db s t b hexec hb => ?_⟩ <;> rw [drop_out_of_exec_eq_next hexec] at hb
  · obtain ⟨hc, rfl | rfl⟩ := (mem_bytes_updateFrequency_iff channel divisor b).1 hb
    · exact addrField_latch_ofNat_toNat (channel * 2) _ (by omega)
    · exact absurd ((isLatchByte_data _).symm.trans hlatch) Bool.false_ne_true
  · obtain rfl := (mem_bytes_updateNoise_iff feedback shift b).1 hb
    exact ⟨isLatchByte_latch _ _, addrField_latch_ofNat_toNat 6 _ (by decide)⟩
  · obtain ⟨hc, rfl⟩ := (mem_bytes_updateAttenuation_iff channel db b).1 hb
    exact ⟨isLatchByte_latch _ _, addrField_latch_ofNat_toNat (channel * 2 + 1) _ (by omega)⟩

/-- Settles O25: 32 dB are 16 units of the 4-bit field. -/
theorem attenuationFieldIsHalfTheDecibelsMasked : Obligations.AttenuationFieldIsHalfTheDecibelsMasked := by
  refine ⟨fun channel db s h => ?_, fun channel db s => ?_⟩
  · obtain ⟨b, hlow, hexec⟩ := exec_updateAttenuation_low_nibble channel db s h
    exact ⟨b, hexec, hlow⟩
  · have hfield : attenField db = attenField (db % 32) := (attenField_eq_iff _ _).2 (by omega)
    have hbytes := bytes_updateAttenuation_of_attenField_eq channel hfield
    exact ⟨hbytes, exec_eq_of_bytes_eq hbytes s⟩

/-! ### The closed set of byte values -/

/-- An instruction read from a group sends every byte of the group. -/
theorem mem_bytes_of_readGroup {g : ByteGroup} {i : Instr} {b : Byte} (h : readGroup g = some i)
    (hb : b ∈ g.toBytes) : b ∈ i.bytes :=
  bytes_of_readGroup g i h ▸ hb

theorem emittable_iff (b : Byte) :
    emittable b = true ↔ b.toNat ≤ 0x3F ∨ (0x80 ≤ b.toNat ∧ b.toNat ≤ 0xE7) ∨ 0xF0 ≤ b.toNat := by
  simp [emittable, or_assoc]

/-- Of the data bytes those with bit 6 zero are emitted (rules R63, R65). -/
theorem toNat_le_of_emittable_of_not_isLatchByte (b : Byte) (hemit : emittable b = true)
    (hdata : isLatchByte b = false) : b.toNat ≤ 0x3F := by
  revert b
  decide

/-- The data bytes that frequency requests send (rules R63, R65). -/
theorem exists_data_sent_iff (b : Byte) :
    (∃ channel divisor, b ∈ (Instr.updateFrequency channel divisor).bytes ∧ isLatchByte b = false) ↔
      b.toNat ≤ 0x3F := by
  constructor
  · rintro ⟨channel, divisor, hb, hdata⟩
    obtain ⟨-, rfl | rfl⟩ := (mem_bytes_updateFrequency_iff channel divisor b).1 hb
    · rw [isLatchByte_latch] at hdata
      cases hdata
    · rw [data_toNat_eq]
      omega
  · intro h
    have hdata := data_of_toNat_le b h
    have hread := readGroup_frequency 0 0#4 (dataField b) (by decide)
    exact ⟨_, _, mem_bytes_of_readGroup hread (by simp [ByteGroup.toBytes, hdata]), hdata ▸ isLatchByte_data _⟩

/-- Every byte of an instruction is one of the closed set (rule R65). -/
theorem emittable_of_mem_bytes {i : Instr} {b : Byte} (hb : b ∈ i.bytes) : emittable b = true := by
  cases i with
  | updateFrequency c d =>
    obtain ⟨hc, rfl | rfl⟩ := (mem_bytes_updateFrequency_iff c d b).1 hb
    · have haddr : BitVec.ofNat 3 (c * 2) ≠ 6#3 := by interval_cases c <;> decide
      exact (emittable_latch _ _).2 fun h6 => absurd h6 haddr
    · have hle : (data (divisorLow d)).toNat ≤ 0x3F := by rw [data_toNat_eq]; omega
      exact (emittable_iff _).2 (.inl hle)
  | updateNoise f sh =>
    obtain rfl := (mem_bytes_updateNoise_iff f sh b).1 hb
    have hfield : (noiseField f sh).toNat < 8 := by rw [noiseField_toNat]; omega
    exact (emittable_latch _ _).2 fun _ => hfield
  | updateAttenuation c db =>
    obtain ⟨hc, rfl⟩ := (mem_bytes_updateAttenuation_iff c db b).1 hb
    have haddr : BitVec.ofNat 3 (c * 2 + 1) ≠ 6#3 := by interval_cases c <;> decide
    exact (emittable_latch _ _).2 fun h6 => absurd h6 haddr

/-- Every byte of the closed set is sent by an instruction: a data byte by a frequency request, and a latch byte by the
request for the register of its address (rules R21, R65). -/
theorem exists_mem_bytes_of_emittable (b : Byte) (h : emittable b = true) : ∃ i : Instr, b ∈ i.bytes := by
  cases hlatch : isLatchByte b with
  | false =>
    have hle := toNat_le_of_emittable_of_not_isLatchByte b h hlatch
    obtain ⟨channel, divisor, hb, -⟩ := (exists_data_sent_iff b).2 hle
    exact ⟨_, hb⟩
  | true =>
    rw [← latch_of_isLatchByte b hlatch] at h ⊢
    generalize addrField b = reg, latchField b = d4 at h ⊢
    rcases addr_cases reg with ⟨channel, hc, rfl⟩ | rfl | ⟨channel, hc, rfl⟩
    · exact ⟨_, mem_bytes_of_readGroup (readGroup_frequency channel d4 0#6 hc) List.mem_cons_self⟩
    · exact ⟨_, mem_bytes_of_readGroup (readGroup_noise d4 ((emittable_latch _ _).1 h rfl)) List.mem_cons_self⟩
    · exact ⟨_, mem_bytes_of_readGroup (readGroup_attenuation channel d4 hc) List.mem_cons_self⟩

/-- The highest field value a register's requests send: bit 3 of a noise-control field is zero (rules R62, R69). -/
def PsgReg.maxField (r : PsgReg) : Nat :=
  if r = .noiseCtrl then 7 else 15

/-- The latch bytes that a register's requests send carry its address and any field up to its highest (rules R21,
R65). -/
theorem PsgReg.exists_latch_sent_iff (r : PsgReg) (b : Byte) :
    (∃ x y, b ∈ (r.writtenBy x y).bytes ∧ isLatchByte b = true) ↔
      ∃ d4 : BitVec 4, d4.toNat ≤ r.maxField ∧ b = latch r.addr d4 := by
  constructor
  · rintro ⟨x, y, hb, hlatch⟩
    cases r with
    | tone0Freq | tone1Freq | tone2Freq =>
      obtain ⟨-, rfl | rfl⟩ := (mem_bytes_updateFrequency_iff _ x b).1 hb
      · exact ⟨divisorHigh x, Nat.le_of_lt_succ (divisorHigh x).isLt, rfl⟩
      · rw [isLatchByte_data] at hlatch
        cases hlatch
    | noiseCtrl =>
      have hfield : (noiseField x y).toNat ≤ 7 := by rw [noiseField_toNat]; omega
      exact ⟨noiseField x y, hfield, (mem_bytes_updateNoise_iff x y b).1 hb⟩
    | tone0Atten | tone1Atten | tone2Atten | noiseAtten =>
      obtain ⟨-, rfl⟩ := (mem_bytes_updateAttenuation_iff _ x b).1 hb
      exact ⟨attenField x, Nat.le_of_lt_succ (attenField x).isLt, rfl⟩
  · rintro ⟨d4, hd4, rfl⟩
    cases r with
    | tone0Freq | tone1Freq | tone2Freq =>
      exact ⟨_, 0, mem_bytes_of_readGroup (readGroup_frequency _ d4 0#6 (by decide)) List.mem_cons_self,
        isLatchByte_latch _ _⟩
    | noiseCtrl =>
      exact ⟨_, _, mem_bytes_of_readGroup (readGroup_noise d4 (Nat.lt_succ_of_le hd4)) List.mem_cons_self,
        isLatchByte_latch _ _⟩
    | tone0Atten | tone1Atten | tone2Atten | noiseAtten =>
      exact ⟨_, 0, mem_bytes_of_readGroup (readGroup_attenuation _ d4 (by decide)) List.mem_cons_self,
        isLatchByte_latch _ _⟩

/-- The latch bytes of one address with a field up to `top`, as a range of numbers (rule R62). -/
theorem exists_eq_latch_iff (reg : BitVec 3) (top : Nat) (htop : top ≤ 15) (b : Byte) :
    (∃ d4 : BitVec 4, d4.toNat ≤ top ∧ b = latch reg d4) ↔
      0x80 + 16 * reg.toNat ≤ b.toNat ∧ b.toNat ≤ 0x80 + 16 * reg.toNat + top := by
  constructor
  · rintro ⟨d4, hd4, rfl⟩
    rw [latch_toNat_eq_add]
    omega
  · rintro ⟨hlow, hhigh⟩
    have hfield : (BitVec.ofNat 4 (b.toNat - (0x80 + 16 * reg.toNat))).toNat = b.toNat - (0x80 + 16 * reg.toNat) :=
      (BitVec.toNat_ofNat _ _).trans (Nat.mod_eq_of_lt (by omega))
    refine ⟨_, hfield.le.trans (by omega), BitVec.eq_of_toNat_eq ?_⟩
    rw [latch_toNat_eq_add, hfield]
    omega

theorem PsgReg.maxField_le (r : PsgReg) : r.maxField ≤ 15 := by
  cases r <;> decide

/-- Settles O30: what instructions send are their bytes, and those are the values of the closed set, register by register
for the latch bytes. -/
theorem emittedByteValuesAreTheClosedSet : Obligations.EmittedByteValuesAreTheClosedSet := by
  refine ⟨fun b => ?_, fun r b => ?_, fun b => ?_⟩
  · simp only [exists_sent_iff]
    rw [← emittable_iff]
    exact ⟨fun ⟨i, hb⟩ => emittable_of_mem_bytes hb, exists_mem_bytes_of_emittable b⟩
  · simp only [exists_sent_and_iff]
    exact (r.exists_latch_sent_iff b).trans (exists_eq_latch_iff r.addr r.maxField r.maxField_le b)
  · simp only [exists_sent_and_iff]
    exact exists_data_sent_iff b

end Sys2Proof.Machine
end
